-- ==== Sys2Proof/Word.lean ====
section
/-! DEFINITION. The word types of EFE: the widths R12, R14 and R90 fix (00_scope.md, 30_encoding.md). -/

namespace Sys2Proof

/-- `u8` of R14: a host register byte, a frame byte, an address of the register window (R60). -/
abbrev Byte := BitVec 8

/-- `u16` of R14: a sensor sample (R7). -/
abbrev Half := BitVec 16

/-- `u32` of R14: a counter (R12); arithmetic wraps modulo 2^32 (R14). -/
abbrev Word := BitVec 32

/-- EVW, the 18-bit event word of R90. -/
abbrev EventWord := BitVec 18

end Sys2Proof
end

