-- ==== Sys2Proof/Syntax.lean ====
section
/-! DEFINITION. The ten events of EFE, one constructor for each row of spec/opcode_table.json (R90 to R95,
30_encoding.md), the frame kinds (R17), and the assembler's pseudo-instructions (R105). -/

namespace Sys2Proof

/-- The frame kinds in scope, exactly three (R3, R17). -/
inductive Kind where
  | uid
  | url
  | tlm
  deriving DecidableEq, Repr

/-- The three counters the host can read (R31 to R33). -/
inductive Counter where
  | iter
  | advcnt
  | seccnt
  deriving DecidableEq, Repr

/-- An input event. The bits R90 marks ignored are no operands (R93), so no constructor carries them. -/
inductive Instr where
  /-- NOP, word 0x10000 (R143). -/
  | nop
  /-- ENCODE_UID, word 0x10001 (R190). -/
  | encodeUid
  /-- ENCODE_URL, word 0x10002 (R196). -/
  | encodeUrl
  /-- ENCODE_TLM, word 0x10003 (R215). -/
  | encodeTlm
  /-- CMD_RESERVED, word 0x100cc with the code `c` in 0x04 to 0xFF (R145). -/
  | cmdReserved (c : Byte)
  /-- WR, host write of `d` to the register at `a`, `a` not 0x00 (R141). -/
  | wr (a d : Byte)
  /-- RD, host read of the register at `a` (R140). -/
  | rd (a : Byte)
  /-- TICK_ACTIVE, a tick with "is radio active" set (R230). -/
  | tickActive
  /-- TICK_INACTIVE, a tick with "is radio active" clear (R231). -/
  | tickInactive
  /-- RESET, the power-on reset event (R290). -/
  | reset
  deriving DecidableEq, Repr

/-- The pseudo-instructions of R105, an assembler's shorthand for runs of events. -/
inductive Pseudo where
  | cfgRssi (v : Byte)
  | cfgNs (b : Vector Byte 10)
  /-- `b[0]` is the least significant byte of the identifier (R105). -/
  | cfgDevid (b : Vector Byte 6)
  | cfgUrl (s : List Byte)
  | cfgNomatch (p : Byte)
  | rd32 (g : Counter)
  | rdslot (k : Kind) (n : Nat)
  | ticks (n : Nat)
  deriving DecidableEq, Repr

end Sys2Proof
end

