-- ==== Sys2Proof/WellFormed.lean ====
section
/-! DEFINITION. Which terms of Instr stand for an event word: the "constraint" entries of spec/opcode_table.json. -/

namespace Sys2Proof

/-- R145: a reserved command's code is none of the four commands'. R141: a WR's address is not the command register's.
Every other term is an event. -/
def Instr.wf : Instr → Bool
  | .nop => true
  | .encodeUid => true
  | .encodeUrl => true
  | .encodeTlm => true
  | .cmdReserved c => decide (c ≠ 0x00 ∧ c ≠ 0x01 ∧ c ≠ 0x02 ∧ c ≠ 0x03)
  | .wr a _ => decide (a ≠ 0x00)
  | .rd _ => true
  | .tickActive => true
  | .tickInactive => true
  | .reset => true

/-- R105: `cfg.url` takes at most 32 bytes; a slot window has 32 bytes (R36). -/
def Pseudo.wf : Pseudo → Bool
  | .cfgUrl s => decide (s.length ≤ 32)
  | .rdslot _ n => decide (n ≤ 32)
  | .cfgRssi _ => true
  | .cfgNs _ => true
  | .cfgDevid _ => true
  | .cfgNomatch _ => true
  | .rd32 _ => true
  | .ticks _ => true

end Sys2Proof
end

