-- ==== Sys2Proof/Decode.lean ====
section
/-! DEFINITION. The decoder of R95 (30_encoding.md), total on every 18-bit event word, the encoder of R104, and the
expansions of R105. -/

namespace Sys2Proof

/-! ## Fields of the event word (R90, R91) -/

/-- EVW[17:16], the format. -/
def formatOf (w : EventWord) : BitVec 2 := w.extractLsb' 16 2

/-- ADDR = EVW[15:8] (R91). -/
def addrOf (w : EventWord) : Byte := w.extractLsb' 8 8

/-- DATA = EVW[7:0] (R91), never extended. -/
def dataOf (w : EventWord) : Byte := w.extractLsb' 0 8

/-- ACTIVE = EVW[0] (R91). -/
def activeOf (w : EventWord) : BitVec 1 := w.extractLsb' 0 1

/-! ## Decoding -/

/-- The command codes of R92. -/
def decodeCommand (c : Byte) : Instr :=
  if c = 0x00 then .nop
  else if c = 0x01 then .encodeUid
  else if c = 0x02 then .encodeUrl
  else if c = 0x03 then .encodeTlm
  else .cmdReserved c

/-- R95. Total: no event word is illegal (R94). -/
def decode (w : EventWord) : Instr :=
  if formatOf w = 0b00 then .rd (addrOf w)
  else if formatOf w = 0b01 then
    if addrOf w = 0x00 then decodeCommand (dataOf w) else .wr (addrOf w) (dataOf w)
  else if formatOf w = 0b10 then
    if activeOf w = 1 then .tickActive else .tickInactive
  else .reset

/-- The one way a number can be refused: it is wider than the event word of R90. No 18-bit word is refused (R94). -/
inductive DecodeReject where
  /-- Raised by `decodeNat` for a number of 2^18 or more. Safe: EFE's event input has no such word. -/
  | widerThanEventWord (w : Nat)
  deriving DecidableEq, Repr

/-- The decoder on any number, rejecting by name what is no event word. -/
def decodeNat (w : Nat) : Except DecodeReject Instr :=
  if w < 2 ^ 18 then .ok (decode (BitVec.ofNat 18 w)) else .error (.widerThanEventWord w)

/-- The decoder on a word numbered as spec/opcode_table.json numbers it. An event is one word of 18 bits (R95), so the
row's bits are the word's low 18 bits and the rest of its whole bytes are zero (log 9). -/
def decodeTableWord (_nbits w : Nat) : Option Instr :=
  match decodeNat w with
  | .ok i => some i
  | .error _ => none

/-! ## Encoding, written from R90, R92 and R104; ignored bits are written as 0 (R93) -/

/-- `cmd`: 0b01 ++ 0x00 ++ code (R104). -/
def commandWord (c : Byte) : EventWord := 0b01#2 ++ 0x00#8 ++ c

def encode : Instr → EventWord
  | .nop => commandWord 0x00
  | .encodeUid => commandWord 0x01
  | .encodeUrl => commandWord 0x02
  | .encodeTlm => commandWord 0x03
  | .cmdReserved c => commandWord c
  | .wr a d => 0b01#2 ++ a ++ d
  | .rd a => 0b00#2 ++ a ++ 0x00#8
  | .tickActive => 0b10#2 ++ 0x00#8 ++ 0b0000000#7 ++ 1#1
  | .tickInactive => 0b10#2 ++ 0x00#8 ++ 0b0000000#7 ++ 0#1
  | .reset => 0b11#2 ++ 0x0000#16

/-! ## Pseudo-instructions (R105) -/

/-- One write for each byte, at consecutive addresses from `base`. -/
def writesFrom (base : Nat) : List Byte → List Instr
  | [] => []
  | b :: bs => .wr (BitVec.ofNat 8 base) b :: writesFrom (base + 1) bs

/-- `n` reads at consecutive addresses from `base`. -/
def readsFrom (base : Nat) : Nat → List Instr
  | 0 => []
  | n + 1 => .rd (BitVec.ofNat 8 base) :: readsFrom (base + 1) n

/-- The lowest address of a counter's group (R31 to R33). -/
def Counter.base : Counter → Nat
  | .iter => 0x40
  | .advcnt => 0x44
  | .seccnt => 0x48

/-- The lowest address of a slot's window (R36). -/
def Kind.windowBase : Kind → Nat
  | .uid => 0x50
  | .url => 0x70
  | .tlm => 0x90

/-- The expansions of R105, in order. -/
def Pseudo.expand : Pseudo → List Instr
  | .cfgRssi v => [.wr 0x03 v]
  | .cfgNs b => writesFrom 0x04 b.toList
  | .cfgDevid b => writesFrom 0x0E b.toList
  | .cfgUrl s => .wr 0x14 (BitVec.ofNat 8 s.length) :: writesFrom 0x20 s
  | .cfgNomatch p => [.wr 0x02 p]
  | .rd32 g => readsFrom g.base 4
  | .rdslot k n => readsFrom k.windowBase n
  | .ticks n => List.replicate n .tickActive

/-- The value `rd32` gives from the four bytes read (R105): the first byte is the most significant. -/
def rd32Value (b0 b1 b2 b3 : Byte) : Word :=
  (b0.setWidth 32 <<< 24) + (b1.setWidth 32 <<< 16) + (b2.setWidth 32 <<< 8) + b3.setWidth 32

end Sys2Proof
end

