-- ==== Sys2Proof/Config.lean ====
section
/-! DEFINITION. What an implementation fixes (the parameters of R11, 00_scope.md) and the free values the spec
leaves open (the sensor draws of R16 and the arbitration of R74). -/

namespace Sys2Proof

/-- The parameters a model of EFE takes as arguments (R11). HDR_CONST has no byte 7 (R97), so its ten bytes are kept as
the two runs the header holds: offsets 0 to 6 and offsets 8 to 10. -/
structure Params where
  /-- SLOT_CAP: capacity in bytes of each frame slot and of the scratch buffer. -/
  slotCap : Nat
  /-- URL_MAX_REMAINDER: largest legal length of the URL remainder after the scheme byte. -/
  urlMaxRemainder : Nat
  /-- HDR_CONST[0..6]. -/
  hdrLow : Vector Byte 7
  /-- HDR_CONST[8..10]. -/
  hdrHigh : Vector Byte 3
  deriving DecidableEq, Repr

/-- The defaults of R11 and R97. Their values 31 and the header bytes are the spec's, which marks them as general
knowledge (93_implementation_defined.md G1, G3). -/
def Params.default : Params where
  slotCap := 31
  urlMaxRemainder := 17
  hdrLow := #v[0x02, 0x01, 0x06, 0x03, 0x03, 0xAA, 0xFE]
  hdrHigh := #v[0x16, 0xAA, 0xFE]

/-- The legal values of R11: SLOT_CAP 1 to 32, URL_MAX_REMAINDER 0 to 255, any header bytes. -/
abbrev Params.legal (p : Params) : Prop :=
  1 ≤ p.slotCap ∧ p.slotCap ≤ 32 ∧ p.urlMaxRemainder ≤ 255

/-- FREE VALUE: what the battery port answers at the n-th draw where the environment lists no sample (R16 "a free input,
under no law"; R222; log 4). No body: nothing can evaluate it. -/
opaque Config.freeBattery : Nat → Half

/-- FREE VALUE: what the temperature port answers at the n-th draw where the environment lists no sample (R16, R222;
log 4). -/
opaque Config.freeTemperature : Nat → Half

/-- FREE VALUE: at the n-th draw, whether the host event of two events presented together is performed first (R74 "a model
admits both orders"; log 3). -/
opaque Config.freeHostFirst : Nat → Bool

end Sys2Proof
end

