-- ==== Sys2Proof/Machine/State.lean ====
section
/-! DEFINITION. The state of EFE as plain data: the record of R22 (10_state.md), the parameters of R11, what stands at
the ports of R7 (00_scope.md), and the state right after reset (R47, R290). -/

namespace Sys2Proof.Machine

open Sys2Proof

/-- One frame slot (R38): a buffer of SLOT_CAP bytes and the number of valid bytes. That the buffer has exactly SLOT_CAP
bytes is part of the invariant of Safety.lean. -/
structure Slot where
  buf : List Byte
  len : Byte
  deriving DecidableEq, Repr

/-- The complete state of EFE: exactly the elements of R22, with its widths. -/
structure Efe where
  /-- CFG_NOMATCH (R25): 0 fail-closed, 1 legacy pass-through. -/
  cfgNomatch : BitVec 1
  /-- RSSI (R26). -/
  rssi : Byte
  /-- NS[0..9] (R27). -/
  ns : Vector Byte 10
  /-- DEVID[0..5] (R28), DEVID[0] least significant. -/
  devid : Vector Byte 6
  /-- URL_LEN (R29), any value. -/
  urlLen : Byte
  /-- URL[0..31] (R30). -/
  url : Vector Byte 32
  /-- ST_ERR (R24): 0 success, else an error code of R260. -/
  stErr : BitVec 2
  /-- ST_SRC (R24): a frame kind, or 3 for none. -/
  stSrc : BitVec 2
  /-- ITER (R31). -/
  iter : Word
  /-- ADVCNT (R32). -/
  advcnt : Word
  /-- SECCNT (R33). -/
  seccnt : Word
  /-- SLOT[0]. -/
  slotUid : Slot
  /-- SLOT[1]. -/
  slotUrl : Slot
  /-- SLOT[2]. -/
  slotTlm : Slot
  /-- LIVE (R35): the kind last pushed, or 0xFF. -/
  live : Byte
  deriving DecidableEq, Repr

/-- What one transfer at a port of R7, other than the event input, carries. -/
inductive PortEvent where
  /-- Host read data: the value a host read returns (R140). -/
  | readData (v : Byte)
  /-- batt_mv answered a pull query with `v` (R222). -/
  | battSample (v : Half)
  /-- temp_q88 answered a pull query with `v` (R222). -/
  | tempSample (v : Half)
  /-- adv_set: a byte sequence and its length (R236). -/
  | advSet (bytes : List Byte) (n : Byte)
  /-- log_err: an error code and a kind (R169, R145). -/
  | logErr (code kind : BitVec 2)
  deriving DecidableEq, Repr

/-- What is presented at the event input: one event word, or a host event and a tick at the same time (R74). -/
inductive Presented where
  | single (w : EventWord)
  | together (host tick : EventWord)
  deriving DecidableEq, Repr

/-- The machine: EFE's state (R22), its parameters (R11; log 1), and, as the model's own plain data, what stands at its
ports (R7; logs 2 to 5). -/
structure State where
  /-- The parameters, which no event changes (R49). -/
  params : Params
  /-- The state of R22. -/
  efe : Efe
  /-- Event input: presented and not yet taken, the next first (R72; log 2). -/
  inputs : List Presented
  /-- batt_mv: the samples the port answers next (R16, R48; log 4). -/
  battPort : List Half
  /-- temp_q88: the samples the port answers next (R16, R48; log 4). -/
  tempPort : List Half
  /-- The draws made so far, which index the free values of Config.lean (log 4). -/
  draws : Nat
  /-- Everything that crossed the other ports, oldest first (R75; log 5). -/
  trace : List PortEvent
  deriving DecidableEq, Repr

/-- The scratch buffer SCR and the write cursor CUR of one build (R46): hidden, and gone when the build ends. -/
structure Scratch where
  scr : List Byte
  cur : Nat
  deriving DecidableEq, Repr

/-- The error kinds of R260. -/
inductive ErrKind where
  | bufferTooSmall
  | invalidUrl
  | invalidInput
  deriving DecidableEq, Repr

/-- One entry of ROTATION_TABLE (R232). -/
structure RotationEntry where
  divisor : Nat
  kind : Kind
  rebuild : Bool
  deriving DecidableEq, Repr

/-- Faults: none. "A model of EFE has no fault state" (R266), so there is no constructor and nothing raises one. Safe. -/
inductive Fault where
  deriving DecidableEq, Repr

/-- Refusals. -/
inductive Refusal where
  /-- Raised only by exec's arm of an instruction that has no meaning yet. No arm does. Safe. -/
  | notModelled (mnemonic : String)
  deriving DecidableEq, Repr

/-- A slot after reset: zero-filled, empty (R47). -/
def Slot.empty (p : Params) : Slot where
  buf := List.replicate p.slotCap 0x00
  len := 0x00

/-- Every element of R22 at its reset value (R47). -/
def Efe.reset (p : Params) : Efe where
  cfgNomatch := 0
  rssi := 0x00
  ns := Vector.replicate 10 0x00
  devid := Vector.replicate 6 0x00
  urlLen := 0x00
  url := Vector.replicate 32 0x00
  stErr := 0
  stSrc := 3
  iter := 0
  advcnt := 0
  seccnt := 0
  slotUid := Slot.empty p
  slotUrl := Slot.empty p
  slotTlm := Slot.empty p
  live := 0xFF

/-- The machine right after reset, with the default parameters (R11), nothing presented, no sample listed and nothing on
the trace (logs 1, 2, 4 and 5). -/
def State.reset : State where
  params := Params.default
  efe := Efe.reset Params.default
  inputs := []
  battPort := []
  tempPort := []
  draws := 0
  trace := []

end Sys2Proof.Machine
end

