-- ==== Sys2Proof/Machine/Ops.lean ====
section
/-! DEFINITION. The named operations every event is made of: byte order (R15), slots and kinds (R17, R38), the ports
(R7, R16), the scratch buffer and its append primitives (R160 to R167), and the two ends of a build, commit (R168) and
fail (R169), which is EFE's error entry (R273). -/

namespace Sys2Proof.Machine

open Sys2Proof

/-! ## Byte order (R15, R67) -/

/-- be16: most significant byte first. -/
def be16 (v : Half) : List Byte := [v.extractLsb' 8 8, v.extractLsb' 0 8]

/-- be32: most significant byte first. -/
def be32 (v : Word) : List Byte :=
  [v.extractLsb' 24 8, v.extractLsb' 16 8, v.extractLsb' 8 8, v.extractLsb' 0 8]

/-- Byte `j` of a counter as the register window shows it, 0 the most significant: `c[31 - 8*j : 24 - 8*j]` (R140). -/
def counterByte (c : Word) (j : Nat) : Byte := c.extractLsb' (24 - 8 * j) 8

/-- A string literal of the spec: its ASCII character codes, no terminator (R15). -/
def ascii (l : List Char) : List Byte := l.map fun c => BitVec.ofNat 8 c.toNat

/-! ## Frame kinds and error kinds -/

/-- The 2-bit number of a kind (R17). -/
def kindCode : Kind → BitVec 2
  | .uid => 0
  | .url => 1
  | .tlm => 2

/-- The number 3, "no frame kind" (R17). -/
def noKind : BitVec 2 := 3

/-- FT(k), the frame type byte (R3, R17). -/
def frameType : Kind → Byte
  | .uid => 0x00
  | .url => 0x10
  | .tlm => 0x20

/-- LIVE's value after a push of kind k (R35). -/
def liveByte : Kind → Byte
  | .uid => 0x00
  | .url => 0x01
  | .tlm => 0x02

/-- The error codes of R260. -/
def errCode : ErrKind → BitVec 2
  | .bufferTooSmall => 1
  | .invalidUrl => 2
  | .invalidInput => 3

/-! ## Slots (R38) -/

/-- SLOT[k]. -/
def Efe.slot (e : Efe) : Kind → Slot
  | .uid => e.slotUid
  | .url => e.slotUrl
  | .tlm => e.slotTlm

/-- SLOT[k] <- sl. -/
def Efe.setSlot (e : Efe) (k : Kind) (sl : Slot) : Efe :=
  match k with
  | .uid => { e with slotUid := sl }
  | .url => { e with slotUrl := sl }
  | .tlm => { e with slotTlm := sl }

/-- ST_ERR <- code; ST_SRC <- src (R24). -/
def Efe.setStatus (e : Efe) (code src : BitVec 2) : Efe := { e with stErr := code, stSrc := src }

/-- The value of one of the three counters (R31 to R33). -/
def Efe.counter (e : Efe) : Counter → Word
  | .iter => e.iter
  | .advcnt => e.advcnt
  | .seccnt => e.seccnt

/-! ## Ports -/

/-- Put one transfer on the trace (R16 `emit`, R75). -/
def emit (x : PortEvent) (s : State) : State := { s with trace := s.trace ++ [x] }

/-- sample_batt (R16, R222): the next listed answer of the port, or a free value where none is listed (log 4). -/
def sampleBatt (s : State) : Half × State :=
  match s.battPort with
  | v :: vs => (v, emit (.battSample v) { s with battPort := vs, draws := s.draws + 1 })
  | [] =>
    (Config.freeBattery s.draws,
      emit (.battSample (Config.freeBattery s.draws)) { s with draws := s.draws + 1 })

/-- sample_temp (R16, R222): the next listed answer of the port, or a free value where none is listed (log 4). -/
def sampleTemp (s : State) : Half × State :=
  match s.tempPort with
  | v :: vs => (v, emit (.tempSample v) { s with tempPort := vs, draws := s.draws + 1 })
  | [] =>
    (Config.freeTemperature s.draws,
      emit (.tempSample (Config.freeTemperature s.draws)) { s with draws := s.draws + 1 })

/-- Take the next event from the event input (R5, R72). Of a host event and a tick presented together, a free value says
which is taken, and the other is then the next (R74; log 3). Where nothing is presented there is no event (log 2). -/
def takeEvent (s : State) : Option (EventWord × State) :=
  match s.inputs with
  | [] => none
  | .single w :: rest => some (w, { s with inputs := rest })
  | .together host tick :: rest =>
    if Config.freeHostFirst s.draws then
      some (host, { s with inputs := .single tick :: rest, draws := s.draws + 1 })
    else
      some (tick, { s with inputs := .single host :: rest, draws := s.draws + 1 })

/-! ## The scratch buffer (R160 to R167) -/

/-- scr_begin (R160). -/
def scrBegin (p : Params) : Scratch where
  scr := List.replicate p.slotCap 0x00
  cur := 0

/-- `l` with the bytes `bs` written from index `i` on. -/
def writeAt (l : List Byte) (i : Nat) (bs : List Byte) : List Byte :=
  l.take i ++ bs ++ l.drop (i + bs.length)

/-- append_bytes with its capacity check (R161, R163): all of `bs` or nothing. -/
def appendBytes (p : Params) (bs : List Byte) (b : Scratch) : Except ErrKind Scratch :=
  if b.cur + bs.length > p.slotCap then .error .bufferTooSmall
  else .ok { scr := writeAt b.scr b.cur bs, cur := b.cur + bs.length }

/-- append_u8 (R162). -/
def appendU8 (p : Params) (v : Byte) (b : Scratch) : Except ErrKind Scratch :=
  if b.cur + 1 > p.slotCap then .error .bufferTooSmall
  else .ok { scr := b.scr.set b.cur v, cur := b.cur + 1 }

/-- append_u16_be (R165). -/
def appendU16be (p : Params) (v : Half) (b : Scratch) : Except ErrKind Scratch :=
  appendBytes p (be16 v) b

/-- append_u32_be (R166). -/
def appendU32be (p : Params) (v : Word) (b : Scratch) : Except ErrKind Scratch :=
  appendBytes p (be32 v) b

/-- encode_header (R164): header, length placeholder and frame type byte, together or not at all. The count it returns, 12,
is the new cursor. -/
def encodeHeader (p : Params) (ft : Byte) (b : Scratch) : Except ErrKind Scratch :=
  if b.cur + 12 > p.slotCap then .error .bufferTooSmall
  else .ok { scr := writeAt b.scr 0 (p.hdrLow.toList ++ [0x00] ++ p.hdrHigh.toList ++ [ft]), cur := 12 }

/-- patch_length (R167): offset 7 <- total length − 8. -/
def patchLength (b : Scratch) : Scratch := { b with scr := b.scr.set 7 (BitVec.ofNat 8 (b.cur - 8)) }

/-! ## Ending a build (R168 to R170) -/

/-- commit (R168). -/
def commit (k : Kind) (b : Scratch) (s : State) : State :=
  { s with efe := (s.efe.setSlot k ⟨b.scr, BitVec.ofNat 8 b.cur⟩).setStatus 0 (kindCode k) }

/-- fail, the error entry of R169, R264 and R273: the slot is emptied, the error recorded and logged; nothing is saved for a
return, for there is none (R274). -/
def fail (k : Kind) (e : ErrKind) (s : State) : State :=
  emit (.logErr (errCode e) (kindCode k))
    { s with efe := (s.efe.setSlot k (Slot.empty s.params)).setStatus (errCode e) (kindCode k) }

/-- encode_op (R170): run the body, then commit or fail. A body may read the ports, so it also gives the state it leaves. -/
def encodeOp (k : Kind) (body : State → State × Except ErrKind Scratch) (s : State) : State :=
  match body s with
  | (s', .error e) => fail k e s'
  | (s', .ok b) => commit k b s'

end Sys2Proof.Machine
end

