-- ==== Sys2Proof/Machine/Encode.lean ====
section
/-! DEFINITION. The frame encode commands (42_frame_encode.md): the UID, URL and TLM build bodies, the URL prefix
compressor with SCHEME_TABLE (R101, R194), and the meanings of ENCODE_UID, ENCODE_URL and ENCODE_TLM. -/

namespace Sys2Proof.Machine

open Sys2Proof

/-! ## UID (R190, R191) -/

/-- build_uid (R190): the namespace in register order, the identifier most significant byte first (R191). -/
def buildUid (p : Params) (e : Efe) : Except ErrKind Scratch := do
  let b ← encodeHeader p (frameType .uid) (scrBegin p)
  let b ← appendU8 p e.rssi b
  let b ← appendBytes p e.ns.toList b
  let b ← appendBytes p e.devid.toList.reverse b
  let b ← appendBytes p (List.replicate 2 0x00) b
  return patchLength b

/-- ENCODE_UID (R190). -/
def execEncodeUid (s : State) : Host.Outcome State Fault Refusal :=
  .next (encodeOp .uid (fun s => (s, buildUid s.params s.efe)) s)

/-! ## URL (R193 to R202) -/

/-- "http://www." -/
def httpWww : List Byte := ascii ['h', 't', 't', 'p', ':', '/', '/', 'w', 'w', 'w', '.']
/-- "https://www." -/
def httpsWww : List Byte := ascii ['h', 't', 't', 'p', 's', ':', '/', '/', 'w', 'w', 'w', '.']
/-- "http://" -/
def httpOnly : List Byte := ascii ['h', 't', 't', 'p', ':', '/', '/']
/-- "https://" -/
def httpsOnly : List Byte := ascii ['h', 't', 't', 'p', 's', ':', '/', '/']

/-- SCHEME_TABLE, searched in this order (R101; 90_conflicts.md C2 for the dots). -/
def schemeTable : List (Byte × List Byte) :=
  [(0x00, httpWww), (0x01, httpsWww), (0x02, httpOnly), (0x03, httpsOnly)]

/-- The first entry whose literal begins `u`, with what is left of `u` (R194). The match is byte-exact (R193). -/
def schemeSearch : List (Byte × List Byte) → List Byte → Option (Byte × List Byte)
  | [], _ => none
  | (c, lit) :: rows, u =>
    if lit.length ≤ u.length ∧ u.take lit.length = lit then some (c, u.drop lit.length)
    else schemeSearch rows u

/-- url_compress (R194), with the no-match policy of R195. -/
def urlCompress (policy : BitVec 1) (u : List Byte) : Except ErrKind (Byte × List Byte) :=
  match schemeSearch schemeTable u with
  | some r => .ok r
  | none => if policy = 0 then .error .invalidUrl else .ok (0x02, u)

/-- The raw URL, URL[0 .. URL_LEN − 1] (R193). -/
def rawUrl (e : Efe) : List Byte := e.url.toList.take e.urlLen.toNat

/-- The tests of ENCODE_URL before any append, in the order of R201, and what is left to send: scheme byte and
remainder. -/
def urlPayload (p : Params) (e : Efe) : Except ErrKind (Byte × List Byte) :=
  if e.urlLen.toNat > 32 then .error .invalidInput
  else if e.urlLen.toNat = 0 then .error .invalidUrl
  else
    match urlCompress e.cfgNomatch (rawUrl e) with
    | .error k => .error k
    | .ok (c, rem) =>
      if rem.length = 0 then .error .invalidUrl
      else if rem.length > p.urlMaxRemainder then .error .invalidUrl
      else .ok (c, rem)

/-- build_url (R196). The remainder is copied byte for byte (R202). -/
def buildUrl (p : Params) (e : Efe) : Except ErrKind Scratch := do
  let (c, rem) ← urlPayload p e
  let b ← encodeHeader p (frameType .url) (scrBegin p)
  let b ← appendU8 p e.rssi b
  let b ← appendU8 p c b
  let b ← appendBytes p rem b
  return patchLength b

/-- ENCODE_URL (R196). -/
def execEncodeUrl (s : State) : Host.Outcome State Fault Refusal :=
  .next (encodeOp .url (fun s => (s, buildUrl s.params s.efe)) s)

/-- What a scanner makes of a scheme byte and a remainder (R102): literal ++ remainder, for the codes of SCHEME_TABLE. EFE
does not perform it. -/
def urlExpand (c : Byte) (rem : List Byte) : Option (List Byte) :=
  match schemeTable.lookup c with
  | some lit => some (lit ++ rem)
  | none => none

/-! ## TLM (R215 to R224) -/

/-- The appends of build_tlm (R215), from the two samples and the two counter values. -/
def tlmFrame (p : Params) (batt temp : Half) (adv sec : Word) : Except ErrKind Scratch := do
  let b ← encodeHeader p (frameType .tlm) (scrBegin p)
  let b ← appendU8 p 0x00 b
  let b ← appendU16be p batt b
  let b ← appendU16be p temp b
  let b ← appendU32be p adv b
  let b ← appendU32be p sec b
  let b ← appendBytes p (List.replicate 2 0x00) b
  return patchLength b

/-- build_tlm (R215, R216): battery sampled once, then temperature once, whether or not the build succeeds (R222). -/
def buildTlm (adv sec : Word) (s : State) : State × Except ErrKind Scratch :=
  let (batt, s1) := sampleBatt s
  let (temp, s2) := sampleTemp s1
  (s2, tlmFrame s2.params batt temp adv sec)

/-- ENCODE_TLM (R215): the current counters, no push, no counter change (R223). -/
def execEncodeTlm (s : State) : Host.Outcome State Fault Refusal :=
  .next (encodeOp .tlm (buildTlm s.efe.advcnt s.efe.seccnt) s)

end Sys2Proof.Machine
end

