-- ==== Sys2Proof/Machine/Flags.lean ====
section
/-! DEFINITION. EFE's only flag-like state, STATUS (R24, R45, 10_state.md): two stored fields and three VALID bits computed
from the slot lengths. -/

namespace Sys2Proof.Machine

open Sys2Proof

/-- A VALID bit: 1 when the slot's length is not 0. -/
def validBit (sl : Slot) : Byte := if sl.len ≠ 0 then 1 else 0

/-- What a read of STATUS returns (R24). -/
def statusByte (e : Efe) : Byte :=
  e.stErr.setWidth 8 ||| (e.stSrc.setWidth 8 <<< 2) ||| (validBit e.slotUid <<< 4)
    ||| (validBit e.slotUrl <<< 5) ||| (validBit e.slotTlm <<< 6)

end Sys2Proof.Machine
end

