-- ==== Sys2Proof/Machine/Operands.lean ====
section
/-! DEFINITION. The register window (R60, R61, 20_memory.md): which register an address names, what a read of it returns
(R140) and what a write to it does (R141). -/

namespace Sys2Proof.Machine

open Sys2Proof

/-- The registers of the address map (R61). -/
inductive Reg where
  | cmd
  | status
  | config
  | rssi
  | ns (i : Fin 10)
  | devid (i : Fin 6)
  | urlLen
  | url (i : Fin 32)
  /-- Byte `j` of a counter's group, 0 the most significant (R31 to R33). -/
  | counter (c : Counter) (j : Fin 4)
  /-- SLEN of kind k (R34). -/
  | slen (k : Kind)
  | live
  /-- Byte `i` of the window of kind k (R36). -/
  | window (k : Kind) (i : Fin 32)
  /-- 0x15 to 0x1F and 0xB0 to 0xFF (R37). -/
  | reserved
  deriving DecidableEq, Repr

/-- The address map of R61. -/
def regAt (a : Byte) : Reg :=
  if a.toNat = 0x00 then .cmd
  else if a.toNat = 0x01 then .status
  else if a.toNat = 0x02 then .config
  else if a.toNat = 0x03 then .rssi
  else if h : 0x04 ≤ a.toNat ∧ a.toNat ≤ 0x0D then .ns ⟨a.toNat - 0x04, by omega⟩
  else if h : 0x0E ≤ a.toNat ∧ a.toNat ≤ 0x13 then .devid ⟨a.toNat - 0x0E, by omega⟩
  else if a.toNat = 0x14 then .urlLen
  else if a.toNat ≤ 0x1F then .reserved
  else if h : 0x20 ≤ a.toNat ∧ a.toNat ≤ 0x3F then .url ⟨a.toNat - 0x20, by omega⟩
  else if h : 0x40 ≤ a.toNat ∧ a.toNat ≤ 0x43 then .counter .iter ⟨a.toNat - 0x40, by omega⟩
  else if h : 0x44 ≤ a.toNat ∧ a.toNat ≤ 0x47 then .counter .advcnt ⟨a.toNat - 0x44, by omega⟩
  else if h : 0x48 ≤ a.toNat ∧ a.toNat ≤ 0x4B then .counter .seccnt ⟨a.toNat - 0x48, by omega⟩
  else if a.toNat = 0x4C then .slen .uid
  else if a.toNat = 0x4D then .slen .url
  else if a.toNat = 0x4E then .slen .tlm
  else if a.toNat = 0x4F then .live
  else if h : 0x50 ≤ a.toNat ∧ a.toNat ≤ 0x6F then .window .uid ⟨a.toNat - 0x50, by omega⟩
  else if h : 0x70 ≤ a.toNat ∧ a.toNat ≤ 0x8F then .window .url ⟨a.toNat - 0x70, by omega⟩
  else if h : 0x90 ≤ a.toNat ∧ a.toNat ≤ 0xAF then .window .tlm ⟨a.toNat - 0x90, by omega⟩
  else .reserved

/-- The byte of a slot window (R36): the buffer's byte below SLOT_CAP, 0x00 from there on. -/
def windowByte (p : Params) (sl : Slot) (i : Nat) : Byte :=
  if i < p.slotCap then sl.buf.getD i 0x00 else 0x00

/-- RegRead by register (R140). -/
def regRead (p : Params) (e : Efe) : Reg → Byte
  | .cmd => 0x00
  | .status => statusByte e
  | .config => e.cfgNomatch.setWidth 8
  | .rssi => e.rssi
  | .ns i => e.ns[i.val]
  | .devid i => e.devid[i.val]
  | .urlLen => e.urlLen
  | .url i => e.url[i.val]
  | .counter c j => counterByte (e.counter c) j.val
  | .slen k => (e.slot k).len
  | .live => e.live
  | .window k i => windowByte p (e.slot k) i.val
  | .reserved => 0x00

/-- RegRead(a) (R140): the byte a host read of address `a` returns. -/
def readByte (s : State) (a : Byte) : Byte := regRead s.params s.efe (regAt a)

/-- The effect of a write by register (R141). Read-only and reserved registers drop it (R37, R65). CMD stores nothing (R23);
the command a write to it performs is R142's, in Host interface events. -/
def regWrite (e : Efe) (r : Reg) (d : Byte) : Efe :=
  match r with
  | .config => { e with cfgNomatch := d.extractLsb' 0 1 }
  | .rssi => { e with rssi := d }
  | .ns i => { e with ns := e.ns.set i.val d }
  | .devid i => { e with devid := e.devid.set i.val d }
  | .urlLen => { e with urlLen := d }
  | .url i => { e with url := e.url.set i.val d }
  | .cmd => e
  | .status => e
  | .counter _ _ => e
  | .slen _ => e
  | .live => e
  | .window _ _ => e
  | .reserved => e

/-- The address of a register: the names an assembler knows (R104), for every register but the reserved ones. -/
def regAddr : Reg → Option Byte
  | .cmd => some 0x00
  | .status => some 0x01
  | .config => some 0x02
  | .rssi => some 0x03
  | .ns i => some (BitVec.ofNat 8 (0x04 + i.val))
  | .devid i => some (BitVec.ofNat 8 (0x0E + i.val))
  | .urlLen => some 0x14
  | .url i => some (BitVec.ofNat 8 (0x20 + i.val))
  | .counter .iter j => some (BitVec.ofNat 8 (0x40 + j.val))
  | .counter .advcnt j => some (BitVec.ofNat 8 (0x44 + j.val))
  | .counter .seccnt j => some (BitVec.ofNat 8 (0x48 + j.val))
  | .slen .uid => some 0x4C
  | .slen .url => some 0x4D
  | .slen .tlm => some 0x4E
  | .live => some 0x4F
  | .window .uid i => some (BitVec.ofNat 8 (0x50 + i.val))
  | .window .url i => some (BitVec.ofNat 8 (0x70 + i.val))
  | .window .tlm i => some (BitVec.ofNat 8 (0x90 + i.val))
  | .reserved => none

end Sys2Proof.Machine
end

