-- ==== Sys2Proof/Machine/HostInterface.lean ====
section
/-! DEFINITION. The host interface events (40_host_interface.md): RD, WR, the command dispatch, NOP and CMD_RESERVED. -/

namespace Sys2Proof.Machine

open Sys2Proof

/-- NOP (R143): every state element and every output port unchanged. -/
def execNop (s : State) : Host.Outcome State Fault Refusal := .next s

/-- CMD_RESERVED (R145): InvalidInput is recorded and logged with "no frame kind"; the code itself is not recorded. -/
def execCmdReserved (_c : Byte) (s : State) : Host.Outcome State Fault Refusal :=
  .next (emit (.logErr (errCode .invalidInput) noKind)
    { s with efe := s.efe.setStatus (errCode .invalidInput) noKind })

/-- Command dispatch (R142): the command is performed within the write. -/
def hostCommand (d : Byte) (s : State) : Host.Outcome State Fault Refusal :=
  if d = 0x00 then execNop s
  else if d = 0x01 then execEncodeUid s
  else if d = 0x02 then execEncodeUrl s
  else if d = 0x03 then execEncodeTlm s
  else execCmdReserved d s

/-- WR (R141). The decoder gives no WR of address 0x00; the term is given R142's effect all the same (log 10). -/
def execWr (a d : Byte) (s : State) : Host.Outcome State Fault Refusal :=
  if a = 0x00 then hostCommand d s
  else .next { s with efe := regWrite s.efe (regAt a) d }

/-- RD (R140): the byte goes out on the host read data port; EFE's state does not change (R65). -/
def execRd (a : Byte) (s : State) : Host.Outcome State Fault Refusal :=
  .next (emit (.readData (readByte s a)) s)

end Sys2Proof.Machine
end

