-- ==== Sys2Proof/Machine/Reset.lean ====
section
/-! DEFINITION. The RESET event (R290, 70_reset_and_hazards.md). -/

namespace Sys2Proof.Machine

open Sys2Proof

/-- RESET (R290): every element of R22 to its reset value of R47. The parameters are no state (R49) and stay; what stands
at the ports is the environment's and stays; no output (log 5). -/
def execReset (s : State) : Host.Outcome State Fault Refusal :=
  .next { s with efe := Efe.reset s.params }

end Sys2Proof.Machine
end

