-- ==== Sys2Proof/Machine/Rotation.lean ====
section
/-! DEFINITION. The rotation sequencer (43_rotation.md): the tick events, ROTATION_TABLE and the push. -/

namespace Sys2Proof.Machine

open Sys2Proof

/-- push(k) (R236): a slot that holds a frame is handed to the radio and counted; an empty one does nothing. -/
def push (k : Kind) (s : State) : State :=
  if (s.efe.slot k).len ≠ 0 then
    emit (.advSet ((s.efe.slot k).buf.take (s.efe.slot k).len.toNat) (s.efe.slot k).len)
      { s with efe := { s.efe with live := liveByte k, advcnt := s.efe.advcnt + 1 } }
  else s

/-- ROTATION_TABLE (R232), tested first-match-wins. -/
def rotationTable : List RotationEntry :=
  [⟨9, .tlm, true⟩, ⟨5, .url, false⟩, ⟨3, .uid, false⟩]

/-- The first entry whose divisor divides `iter` (R230, R232). -/
def selectEntry : List RotationEntry → Word → Option RotationEntry
  | [], _ => none
  | r :: rows, iter => if iter.toNat % r.divisor = 0 then some r else selectEntry rows iter

/-- Step 1 of an active tick (R230). -/
def countTick (s : State) : State :=
  { s with efe := { s.efe with iter := s.efe.iter + 1, seccnt := s.efe.seccnt + 1 } }

/-- dispatch() (R230): rebuild where the entry says so, with the ADVCNT of before the push (R240), then push. -/
def dispatch (s : State) : State :=
  match selectEntry rotationTable s.efe.iter with
  | none => s
  | some r =>
    push r.kind (if r.rebuild then encodeOp .tlm (buildTlm s.efe.advcnt s.efe.seccnt) s else s)

/-- TICK_ACTIVE (R230): the counters first, then the dispatch (R239). -/
def execTickActive (s : State) : Host.Outcome State Fault Refusal := .next (dispatch (countTick s))

/-- TICK_INACTIVE (R231): no state, no sample, no output. -/
def execTickInactive (s : State) : Host.Outcome State Fault Refusal := .next s

end Sys2Proof.Machine
end

