-- ==== Sys2Proof/Machine/Dispatch.lean ====
section
/-! DEFINITION. One arm for each event of spec/opcode_table.json. -/

namespace Sys2Proof.Machine

open Sys2Proof

def exec (i : Instr) (s : State) : Host.Outcome State Fault Refusal :=
  match i with
  | .nop => Sys2Proof.Machine.execNop s
  | .encodeUid => Sys2Proof.Machine.execEncodeUid s
  | .encodeUrl => Sys2Proof.Machine.execEncodeUrl s
  | .encodeTlm => Sys2Proof.Machine.execEncodeTlm s
  | .cmdReserved c => Sys2Proof.Machine.execCmdReserved c s
  | .wr a d => Sys2Proof.Machine.execWr a d s
  | .rd a => Sys2Proof.Machine.execRd a s
  | .tickActive => Sys2Proof.Machine.execTickActive s
  | .tickInactive => Sys2Proof.Machine.execTickInactive s
  | .reset => Sys2Proof.Machine.execReset s

end Sys2Proof.Machine
end

