-- ==== Sys2Proof/Machine/Step.lean ====
section
/-! DEFINITION. One step: the next event of the event input, decoded (R95) and performed to completion (R5, R72). EFE
fetches no instructions (R21, R78): an event is presented to it. -/

namespace Sys2Proof.Machine

open Sys2Proof

/-- One step. Where nothing is presented there is no event and nothing changes (log 2). -/
def step (s : State) : Host.Outcome State Fault Refusal :=
  match takeEvent s with
  | none => .next s
  | some (w, s') => exec (decode w) s'

/-- `s` with the event word `w` presented next at the event input: the one thing a step takes its event from (log 2). -/
def State.withFetchWord (s : State) (_nbits w : Nat) : State :=
  { s with inputs := .single (BitVec.ofNat 18 w) :: s.inputs }

end Sys2Proof.Machine
end

