-- ==== Sys2Proof/Safety.lean ====
section
/-! DEFINITION. What a good state of EFE is: the invariants of 10_state.md (R35, R38 to R43), in the terms the statements
use. No step stops (R266), so a safe run is one whose states all meet the invariant. -/

namespace Sys2Proof.Safety

open Sys2Proof Sys2Proof.Machine

/-- The lengths R42 allows a slot of each kind. -/
abbrev legalLen (p : Params) (k : Kind) (n : Nat) : Prop :=
  match k with
  | .uid => n = 0 ∨ n = 31
  | .url => n = 0 ∨ (15 ≤ n ∧ n ≤ 14 + min p.urlMaxRemainder (p.slotCap - 14))
  | .tlm => n = 0 ∨ n = 27

/-- What 10_state.md says of one slot at every moment. -/
structure SlotInv (p : Params) (k : Kind) (sl : Slot) : Prop where
  /-- R38: the buffer has exactly SLOT_CAP bytes. -/
  capacity : sl.buf.length = p.slotCap
  /-- R39. -/
  len_le : sl.len.toNat ≤ p.slotCap
  /-- R40: every byte from `len` on is 0x00. -/
  zero_tail : sl.buf.drop sl.len.toNat = List.replicate (p.slotCap - sl.len.toNat) 0x00
  /-- R41: HDR_CONST[0..6] at offsets 0 to 6. -/
  header_low : sl.len ≠ 0 → sl.buf.take 7 = p.hdrLow.toList
  /-- R41, R172: the service-data length byte. -/
  length_byte : sl.len ≠ 0 → sl.buf[7]? = some (sl.len - 8)
  /-- R41: HDR_CONST[8..10] at offsets 8 to 10. -/
  header_high : sl.len ≠ 0 → (sl.buf.drop 8).take 3 = p.hdrHigh.toList
  /-- R41, R3: the frame type byte of the slot's kind. -/
  frame_type : sl.len ≠ 0 → sl.buf[11]? = some (frameType k)
  /-- R42. -/
  legal_len : legalLen p k sl.len.toNat

/-- The invariant of the whole machine. -/
structure Inv (s : State) : Prop where
  /-- The parameters have legal values (R11). -/
  params : s.params.legal
  uid : SlotInv s.params .uid s.efe.slotUid
  url : SlotInv s.params .url s.efe.slotUrl
  tlm : SlotInv s.params .tlm s.efe.slotTlm
  /-- R43. -/
  counters : s.efe.iter = s.efe.seccnt
  /-- R35: the values LIVE can have. -/
  live : s.efe.live = 0x00 ∨ s.efe.live = 0x01 ∨ s.efe.live = 0x02 ∨ s.efe.live = 0xFF

end Sys2Proof.Safety
end

