-- ==== Sys2Proof/Certificates/Slice0/Obligations.lean ====
section
/-! DEFINITION. The statements for the provers: each formalises numbered rules of spec/ or is derived from its sections
(OBLIGATIONS.json says which). The terms of Sys2Proof.Claims say what the rules say, in the rules' own arithmetic (byte
lists, address ranges, Nat division), not in the model's operations. -/

namespace Sys2Proof.Claims

open Sys2Proof Sys2Proof.Machine

/-! ## Frames, byte by byte (R96, R98 to R100) -/

/-- The UID frame of R98. -/
def uidLayout (p : Params) (e : Efe) : List Byte :=
  p.hdrLow.toList ++ [0x17#8] ++ p.hdrHigh.toList ++ [0x00#8, e.rssi] ++ e.ns.toList ++
    [e.devid[5], e.devid[4], e.devid[3], e.devid[2], e.devid[1], e.devid[0], 0x00#8, 0x00#8]

/-- The URL frame of R99, for a scheme byte and a remainder. -/
def urlLayout (p : Params) (e : Efe) (c : Byte) (rem : List Byte) : List Byte :=
  p.hdrLow.toList ++ [BitVec.ofNat 8 (6 + rem.length)] ++ p.hdrHigh.toList ++ [0x10, e.rssi, c] ++ rem

/-- A 16-bit field, big-endian (R67). -/
def field16 (v : Half) : List Byte := [BitVec.ofNat 8 (v.toNat / 256), BitVec.ofNat 8 v.toNat]

/-- A 32-bit field, big-endian (R67). -/
def field32 (v : Word) : List Byte :=
  [BitVec.ofNat 8 (v.toNat / 16777216), BitVec.ofNat 8 (v.toNat / 65536), BitVec.ofNat 8 (v.toNat / 256),
    BitVec.ofNat 8 v.toNat]

/-- The TLM frame of R100. -/
def tlmLayout (p : Params) (batt temp : Half) (adv sec : Word) : List Byte :=
  p.hdrLow.toList ++ [0x13] ++ p.hdrHigh.toList ++ [0x20, 0x00] ++ field16 batt ++ field16 temp ++ field32 adv
    ++ field32 sec ++ [0x00, 0x00]

/-- A slot that holds exactly the frame, zeros after it (R168). -/
def filled (p : Params) (frame : List Byte) : Slot where
  buf := frame ++ List.replicate (p.slotCap - frame.length) 0x00
  len := BitVec.ofNat 8 frame.length

/-- An emptied slot (R169). -/
def emptied (p : Params) : Slot where
  buf := List.replicate p.slotCap 0x00
  len := 0x00

/-! ## What a failed build of each kind leaves (R169, R264) -/

def uidFailed (s : State) (code : BitVec 2) : State :=
  { s with efe := { s.efe with slotUid := emptied s.params, stErr := code, stSrc := 0 },
           trace := s.trace ++ [.logErr code 0] }

def urlFailed (s : State) (code : BitVec 2) : State :=
  { s with efe := { s.efe with slotUrl := emptied s.params, stErr := code, stSrc := 1 },
           trace := s.trace ++ [.logErr code 1] }

/-! ## The sensor answers of one TLM build (R222) -/

/-- The battery port's answer: its next listed sample, or a free value (nothing is said of which). -/
def battAnswer (s : State) : Half := s.battPort.headD (Config.freeBattery s.draws)

/-- The temperature port's answer, drawn after the battery's. -/
def tempAnswer (s : State) : Half := s.tempPort.headD (Config.freeTemperature (s.draws + 1))

/-- The state once both ports were sampled, battery first. -/
def sampled (s : State) : State :=
  { s with battPort := s.battPort.tail, tempPort := s.tempPort.tail, draws := s.draws + 2,
           trace := s.trace ++ [.battSample (battAnswer s), .tempSample (tempAnswer s)] }

/-! ## URLs (R101, R193, R194), the literals as their ASCII codes -/

def litHttpWww : List Byte := [0x68, 0x74, 0x74, 0x70, 0x3A, 0x2F, 0x2F, 0x77, 0x77, 0x77, 0x2E]
def litHttpsWww : List Byte := [0x68, 0x74, 0x74, 0x70, 0x73, 0x3A, 0x2F, 0x2F, 0x77, 0x77, 0x77, 0x2E]
def litHttp : List Byte := [0x68, 0x74, 0x74, 0x70, 0x3A, 0x2F, 0x2F]
def litHttps : List Byte := [0x68, 0x74, 0x74, 0x70, 0x73, 0x3A, 0x2F, 0x2F]

/-- `u` matches a table entry with code `c` and leaves `rem`, and matches no earlier entry (R194). -/
def tableMatch (u : List Byte) (c : Byte) (rem : List Byte) : Prop :=
  (c = 0x00 ∧ u = litHttpWww ++ rem) ∨
  (c = 0x01 ∧ u = litHttpsWww ++ rem) ∨
  (c = 0x02 ∧ u = litHttp ++ rem ∧ ¬ litHttpWww <+: u) ∨
  (c = 0x03 ∧ u = litHttps ++ rem ∧ ¬ litHttpsWww <+: u)

/-- `u` matches no table entry. -/
def noTableMatch (u : List Byte) : Prop :=
  ¬ litHttpWww <+: u ∧ ¬ litHttpsWww <+: u ∧ ¬ litHttp <+: u ∧ ¬ litHttps <+: u

/-- What url_compress gives (R194, R195): a table match, or the pass-through when CFG_NOMATCH is 1. -/
def compressesTo (e : Efe) (u : List Byte) (c : Byte) (rem : List Byte) : Prop :=
  tableMatch u c rem ∨ (e.cfgNomatch = 1 ∧ noTableMatch u ∧ c = 0x02 ∧ rem = u)

/-- The raw URL (R193). -/
def urlBytes (e : Efe) : List Byte := e.url.toList.take e.urlLen.toNat

/-! ## The register window as R140 and R141 spell it, by address -/

def readR140 (p : Params) (e : Efe) (a : Nat) : Byte :=
  if a = 0x00 then 0x00
  else if a = 0x01 then
    BitVec.ofNat 8 (e.stErr.toNat + 4 * e.stSrc.toNat + (if e.slotUid.len = 0 then 0 else 16)
      + (if e.slotUrl.len = 0 then 0 else 32) + (if e.slotTlm.len = 0 then 0 else 64))
  else if a = 0x02 then BitVec.ofNat 8 e.cfgNomatch.toNat
  else if a = 0x03 then e.rssi
  else if a ≤ 0x0D then e.ns.toList.getD (a - 0x04) 0x00
  else if a ≤ 0x13 then e.devid.toList.getD (a - 0x0E) 0x00
  else if a = 0x14 then e.urlLen
  else if a ≤ 0x1F then 0x00
  else if a ≤ 0x3F then e.url.toList.getD (a - 0x20) 0x00
  else if a ≤ 0x4B then
    BitVec.ofNat 8 (([e.iter, e.advcnt, e.seccnt].getD ((a - 0x40) / 4) 0).toNat / 256 ^ (3 - (a - 0x40) % 4))
  else if a ≤ 0x4E then ([e.slotUid, e.slotUrl, e.slotTlm].map (·.len)).getD (a - 0x4C) 0x00
  else if a = 0x4F then e.live
  else if a ≤ 0xAF then
    if (a - 0x50) % 32 < p.slotCap then
      (([e.slotUid, e.slotUrl, e.slotTlm].map (·.buf)).getD ((a - 0x50) / 32) []).getD ((a - 0x50) % 32) 0x00
    else 0x00
  else 0x00

def writeR141 (e : Efe) (a : Nat) (d : Byte) : Efe :=
  if a = 0x02 then { e with cfgNomatch := BitVec.ofNat 1 d.toNat }
  else if a = 0x03 then { e with rssi := d }
  else if 0x04 ≤ a ∧ a ≤ 0x0D then { e with ns := e.ns.setIfInBounds (a - 0x04) d }
  else if 0x0E ≤ a ∧ a ≤ 0x13 then { e with devid := e.devid.setIfInBounds (a - 0x0E) d }
  else if a = 0x14 then { e with urlLen := d }
  else if 0x20 ≤ a ∧ a ≤ 0x3F then { e with url := e.url.setIfInBounds (a - 0x20) d }
  else e

/-- The read-write addresses of R61. -/
def writable (a : Nat) : Prop := (0x02 ≤ a ∧ a ≤ 0x14) ∨ (0x20 ≤ a ∧ a ≤ 0x3F)

/-! ## Whole-machine terms -/

def isAdvSet : PortEvent → Bool
  | .advSet _ _ => true
  | _ => false

def isLogErr : PortEvent → Bool
  | .logErr _ _ => true
  | _ => false

def isBattSample : PortEvent → Bool
  | .battSample _ => true
  | _ => false

/-- The kind of the rotation entry that a value of ITER selects. -/
def kindAt (n : Word) : Option Kind := (selectEntry rotationTable n).map (·.kind)

/-- `e` with the host-writable registers of `c`. -/
def withConfig (e c : Efe) : Efe :=
  { e with cfgNomatch := c.cfgNomatch, rssi := c.rssi, ns := c.ns, devid := c.devid, urlLen := c.urlLen, url := c.url }

/-- `e` with all ST bits 0: what is left when ERR and SRC are not looked at. -/
def blankStatus (e : Efe) : Efe := { e with stErr := 0, stSrc := 0 }

/-- The bytes an adv_set carries are one whole frame (R41, R103, R171). -/
structure WholeFrame (p : Params) (bytes : List Byte) (n : Byte) : Prop where
  length : bytes.length = n.toNat
  at_least_header : 12 < bytes.length
  fits : bytes.length ≤ p.slotCap
  header_low : bytes.take 7 = p.hdrLow.toList
  length_byte : bytes[7]? = some (n - 8)
  header_high : (bytes.drop 8).take 3 = p.hdrHigh.toList
  frame_type : bytes[11]? = some 0x00 ∨ bytes[11]? = some 0x10 ∨ bytes[11]? = some 0x20

/-- The events of a list performed in order (R72). -/
def performAll : List Instr → State → Host.Outcome State Fault Refusal
  | [], s => .next s
  | i :: is, s =>
    match exec i s with
    | .next t => performAll is t
    | .fault r => .fault r
    | .refused r => .refused r

end Sys2Proof.Claims

open Sys2Proof Sys2Proof.Machine Sys2Proof.Claims Sys2Proof.Safety

/-! ## Encoding -/

/-- Event words R104 and R95 write out decode to the events they stand for. -/
def Obligations.SpecWordsDecode : Prop :=
  decode 0x103EC = .wr 0x03 0xEC ∧ decode 0x10000 = .nop ∧ decode 0x10001 = .encodeUid ∧ decode 0x10002 = .encodeUrl ∧
  decode 0x10003 = .encodeTlm ∧ decode 0x1007F = .cmdReserved 0x7F ∧ decode 0x00100 = .rd 0x01 ∧
  decode 0x20001 = .tickActive ∧ decode 0x20000 = .tickInactive ∧ decode 0x30000 = .reset

/-- R95 through the masks and matches of the opcode table: each word of 18 bits, by the row it matches. -/
def Obligations.DecodingFollowsOpcodeTable : Prop :=
  ∀ w : EventWord,
    (w = 0x10000 → decode w = .nop) ∧ (w = 0x10001 → decode w = .encodeUid) ∧ (w = 0x10002 → decode w = .encodeUrl) ∧
    (w = 0x10003 → decode w = .encodeTlm) ∧
    (w &&& 0x3FF00 = 0x10000 → 3 < w.toNat % 256 → decode w = .cmdReserved (BitVec.ofNat 8 w.toNat)) ∧
    (w &&& 0x30000 = 0x10000 → w.toNat / 256 % 256 ≠ 0 →
      decode w = .wr (BitVec.ofNat 8 (w.toNat / 256)) (BitVec.ofNat 8 w.toNat)) ∧
    (w &&& 0x30000 = 0x00000 → decode w = .rd (BitVec.ofNat 8 (w.toNat / 256))) ∧
    (w &&& 0x30001 = 0x20001 → decode w = .tickActive) ∧ (w &&& 0x30001 = 0x20000 → decode w = .tickInactive) ∧
    (w &&& 0x30000 = 0x30000 → decode w = .reset)

/-- Decoding the word of a well-formed event gives the event back, with every operand. -/
def Obligations.DecodeEncodeRoundTrip : Prop := ∀ i : Instr, i.wf = true → decode (encode i) = i

/-- R93: bits that a format ignores change nothing, and the encoder writes them as 0: encoding what a word decodes to gives
the word with its ignored bits cleared. -/
def Obligations.IgnoredBitsDoNotMatter : Prop :=
  (∀ w : EventWord,
    encode (decode w) =
      if w &&& 0x30000 = 0x00000 then w &&& 0x3FF00
      else if w &&& 0x30000 = 0x10000 then w
      else if w &&& 0x30000 = 0x20000 then w &&& 0x30001
      else 0x30000) ∧
  ∀ w w' : EventWord, encode (decode w) = encode (decode w') → decode w = decode w'

/-- R94: every one of the 2^18 words decodes, to a well-formed event; none is refused. -/
def Obligations.EveryWordDecodesToAnEvent : Prop :=
  ∀ n : Nat, n < 2 ^ 18 → ∃ i : Instr, decodeTableWord 24 n = some i ∧ i.wf = true ∧ decode (BitVec.ofNat 18 n) = i

/-! ## Steps -/

/-- A step performs the event word presented next, decoded, on the state from which that word was taken. -/
def Obligations.StepPerformsDecodedEvent : Prop :=
  (∀ (s : State) (w : EventWord) (rest : List Presented), s.inputs = .single w :: rest →
    step s = exec (decode w) { s with inputs := rest }) ∧
  ∀ (s : State) (i : Instr), i.wf = true →
    step (s.withFetchWord 24 (encode i).toNat) = exec i s

/-- The model's choice (notes/assumptions/2.md): where nothing is presented, a step changes nothing. -/
def Obligations.StepWithoutEventIsIdle : Prop := ∀ s : State, s.inputs = [] → step s = .next s

/-- R74: of a host event and a tick presented together, one is performed and then the other, in one of the two orders. -/
def Obligations.SimultaneousEventsInEitherOrder : Prop :=
  ∀ (s : State) (host tick : EventWord) (rest : List Presented), s.inputs = .together host tick :: rest →
    ∃ first second : EventWord, ((first = host ∧ second = tick) ∨ (first = tick ∧ second = host)) ∧
      ∃ s1 : State, exec (decode first) { s with inputs := .single second :: rest, draws := s.draws + 1 } = .next s1 ∧
        step s = .next s1 ∧ step s1 = exec (decode second) { s1 with inputs := rest }

/-- R266, R244: every event completes, in every state; there is no fault to raise. -/
def Obligations.EveryEventCompletes : Prop :=
  (∀ (i : Instr) (s : State), ∃ t : State, exec i s = .next t) ∧ (∀ s : State, ∃ t : State, step s = .next t) ∧
  (Fault → False)

/-- An event leaves alone the parameters and what is presented at the event input; only the trace grows. -/
def Obligations.EventsOnlyExtendTheTrace : Prop :=
  ∀ (i : Instr) (s t : State), exec i s = .next t →
    t.params = s.params ∧ t.inputs = s.inputs ∧ s.trace <+: t.trace ∧ t.battPort <:+ s.battPort ∧ t.tempPort <:+ s.tempPort

/-! ## Host interface -/

/-- R140: a read, whatever its ignored bits, returns the byte of the map and leaves everything as it was. -/
def Obligations.ReadReturnsRegisterByte : Prop :=
  (∀ a ignored : Byte, decode (0b00#2 ++ a ++ ignored) = .rd a) ∧
  ∀ (s : State) (a : Byte),
    exec (.rd a) s = .next { s with trace := s.trace ++ [.readData (readR140 s.params s.efe a.toNat)] }

/-- R141: a write to an address other than CMD stores as the map says, and nothing else happens. -/
def Obligations.WriteStoresRegister : Prop :=
  (∀ a d : Byte, a ≠ 0x00 → decode (0b01#2 ++ a ++ d) = .wr a d) ∧
  ∀ (s : State) (a d : Byte), a ≠ 0x00 → exec (.wr a d) s = .next { s with efe := writeR141 s.efe a.toNat d }

/-- After a write, a read-write register reads as written (CONFIG: bit 0 of it), and every other address reads as before. -/
def Obligations.WriteThenReadBack : Prop :=
  ∀ (s : State) (a d : Byte), a ≠ 0x00 →
    ∃ t : State, exec (.wr a d) s = .next t ∧
      (writable a.toNat → readByte t a = if a = 0x02 then d &&& 0x01 else d) ∧
      (¬ writable a.toNat → readByte t a = readByte s a) ∧
      ∀ b : Byte, b ≠ a → readByte t b = readByte s b

/-- R37: a reserved address reads 0x00 and drops writes. -/
def Obligations.ReservedAddressesInert : Prop :=
  ∀ (s : State) (a d : Byte), (0x15 ≤ a.toNat ∧ a.toNat ≤ 0x1F) ∨ 0xB0 ≤ a.toNat →
    exec (.rd a) s = .next { s with trace := s.trace ++ [.readData 0x00] } ∧ exec (.wr a d) s = .next s

/-- R142: a write to CMD performs the command of its data byte: as a word and as an event. -/
def Obligations.CommandRegisterDispatches : Prop :=
  ∀ (s : State) (d : Byte),
    exec (.wr 0x00 d) s = exec (decode (0b01#2 ++ 0x00#8 ++ d)) s ∧
    (d = 0x00 → exec (.wr 0x00 d) s = exec .nop s) ∧ (d = 0x01 → exec (.wr 0x00 d) s = exec .encodeUid s) ∧
    (d = 0x02 → exec (.wr 0x00 d) s = exec .encodeUrl s) ∧ (d = 0x03 → exec (.wr 0x00 d) s = exec .encodeTlm s) ∧
    (3 < d.toNat → exec (.wr 0x00 d) s = exec (.cmdReserved d) s)

/-- R143: every state element and every output port stays as it is. -/
def Obligations.NopChangesNothing : Prop := decode 0x10000 = .nop ∧ ∀ s : State, exec .nop s = .next s

/-- R145: InvalidInput is recorded and logged, with no kind; nothing else changes, and the code is not kept. -/
def Obligations.ReservedCommandRecordsInvalidInput : Prop :=
  (∀ c : Byte, 3 < c.toNat → decode (0b01#2 ++ 0x00#8 ++ c) = .cmdReserved c) ∧
  ∀ (s : State) (c : Byte),
    exec (.cmdReserved c) s =
      .next { s with efe := { s.efe with stErr := 3, stSrc := 3 }, trace := s.trace ++ [.logErr 3 3] }

/-- The names an assembler knows (R104) resolve to their registers, and the map (R61) names a register at each address but
the reserved ones. -/
def Obligations.RegisterNamesResolve : Prop :=
  (∀ (r : Reg) (a : Byte), regAddr r = some a → regAt a = r) ∧
  ∀ a : Byte, regAt a ≠ .reserved → regAddr (regAt a) = some a

/-- R24: the fields of STATUS, its reset value, and the only events that write ERR or SRC. -/
def Obligations.StatusFieldsAndWriters : Prop :=
  (∀ s : State,
    (readByte s 0x01).extractLsb' 0 2 = s.efe.stErr ∧ (readByte s 0x01).extractLsb' 2 2 = s.efe.stSrc ∧
    ((readByte s 0x01).getLsbD 4 = true ↔ s.efe.slotUid.len ≠ 0) ∧
    ((readByte s 0x01).getLsbD 5 = true ↔ s.efe.slotUrl.len ≠ 0) ∧
    ((readByte s 0x01).getLsbD 6 = true ↔ s.efe.slotTlm.len ≠ 0) ∧ (readByte s 0x01).getLsbD 7 = false) ∧
  readByte State.reset 0x01 = 0x0C ∧
  ∀ (i : Instr) (s t : State), i.wf = true → exec i s = .next t →
    t.efe.stErr ≠ s.efe.stErr ∨ t.efe.stSrc ≠ s.efe.stSrc →
      i = .encodeUid ∨ i = .encodeUrl ∨ i = .encodeTlm ∨ (∃ c, i = .cmdReserved c) ∨ i = .reset ∨
      (i = .tickActive ∧ (s.efe.iter + 1).toNat % 9 = 0)

/-- R70: a counter is read most significant byte first, in the order of the wire. -/
def Obligations.CountersReadBigEndian : Prop :=
  ∀ s : State,
    [readByte s 0x40, readByte s 0x41, readByte s 0x42, readByte s 0x43] = field32 s.efe.iter ∧
    [readByte s 0x44, readByte s 0x45, readByte s 0x46, readByte s 0x47] = field32 s.efe.advcnt ∧
    [readByte s 0x48, readByte s 0x49, readByte s 0x4A, readByte s 0x4B] = field32 s.efe.seccnt ∧
    rd32Value (readByte s 0x40) (readByte s 0x41) (readByte s 0x42) (readByte s 0x43) = s.efe.iter

/-- R105: the configuration pseudo-instructions, performed in order, leave the registers they name at the bytes given and
everything else as it was. -/
def Obligations.ConfigurationShorthandStores : Prop :=
  ∀ s : State,
    (∀ b : Vector Byte 10, performAll (Pseudo.cfgNs b).expand s = .next { s with efe := { s.efe with ns := b } }) ∧
    (∀ b : Vector Byte 6, performAll (Pseudo.cfgDevid b).expand s = .next { s with efe := { s.efe with devid := b } }) ∧
    (∀ u : List Byte, u.length ≤ 32 →
      ∃ r : Vector Byte 32,
        performAll (Pseudo.cfgUrl u).expand s =
          .next { s with efe := { s.efe with urlLen := BitVec.ofNat 8 u.length, url := r } } ∧
        r.toList = u ++ s.efe.url.toList.drop u.length)

/-- R298: with ITER = 0xFF, a read of its low byte, a tick and a read of the next byte return bytes of two values. -/
def Obligations.CounterReadsCanTear : Prop :=
  ∀ s : State, s.efe.iter = 0xFF →
    ∃ s1 s2 s3 : State, exec (.rd 0x43) s = .next s1 ∧ exec .tickActive s1 = .next s2 ∧ exec (.rd 0x42) s2 = .next s3 ∧
      s3.trace = s.trace ++ [.readData 0xFF, .readData 0x01]

/-! ## Encoder primitives -/

/-- R161, R163: an append that does not fit writes nothing and raises BufferTooSmall; one that fits writes exactly its bytes
at the cursor. -/
def Obligations.AppendFitsWholeOrFails : Prop :=
  ∀ (p : Params) (bs : List Byte) (b : Scratch), b.scr.length = p.slotCap →
    (p.slotCap < b.cur + bs.length → appendBytes p bs b = .error .bufferTooSmall) ∧
    (b.cur + bs.length ≤ p.slotCap →
      ∃ b' : Scratch, appendBytes p bs b = .ok b' ∧ b'.cur = b.cur + bs.length ∧ b'.scr.length = p.slotCap ∧
        (∀ i, i < bs.length → b'.scr[b.cur + i]? = bs[i]?) ∧
        ∀ j, j < b.cur ∨ b.cur + bs.length ≤ j → b'.scr[j]? = b.scr[j]?)

/-- R163: appending a sequence is appending its bytes one at a time, the failure included. -/
def Obligations.AppendBytesIsRepeatedAppendU8 : Prop :=
  ∀ (p : Params) (bs : List Byte) (b : Scratch), b.scr.length = p.slotCap → b.cur ≤ p.slotCap →
    appendBytes p bs b = bs.foldlM (fun b v => appendU8 p v b) b

/-- R165, R166, R67: the multi-byte appends append their value's bytes, the most significant first. -/
def Obligations.MultiByteAppendsBigEndian : Prop :=
  ∀ (p : Params) (b : Scratch),
    (∀ v : Half, appendU16be p v b = appendBytes p (field16 v) b) ∧
    ∀ v : Word, appendU32be p v b = appendBytes p (field32 v) b

/-- R164: the header packer, from the cursor 0 it is called at. -/
def Obligations.HeaderPackerWritesTwelveBytes : Prop :=
  ∀ (p : Params) (ft : Byte),
    (p.slotCap < 12 → encodeHeader p ft (scrBegin p) = .error .bufferTooSmall) ∧
    (12 ≤ p.slotCap →
      encodeHeader p ft (scrBegin p) =
        .ok { scr := p.hdrLow.toList ++ [0x00] ++ p.hdrHigh.toList ++ [ft] ++ List.replicate (p.slotCap - 12) 0x00, cur := 12 })

/-- R168, R169, R170: a build ends in its commit or its fail, and neither reaches another slot, a counter, a configuration
register or LIVE. -/
def Obligations.BuildEndsInCommitOrFail : Prop :=
  ∀ (k : Kind) (body : State → State × Except ErrKind Scratch) (s s' : State) (r : Except ErrKind Scratch),
    body s = (s', r) →
      (∀ b, r = .ok b →
        ((encodeOp k body s).efe.slot k = ⟨b.scr, BitVec.ofNat 8 b.cur⟩ ∧ (encodeOp k body s).efe.stErr = 0 ∧
          (encodeOp k body s).efe.stSrc = kindCode k ∧ (encodeOp k body s).trace = s'.trace)) ∧
      (∀ e, r = .error e →
        ((encodeOp k body s).efe.slot k = emptied s'.params ∧ (encodeOp k body s).efe.stErr = errCode e ∧
          (encodeOp k body s).efe.stSrc = kindCode k ∧
          (encodeOp k body s).trace = s'.trace ++ [.logErr (errCode e) (kindCode k)])) ∧
      (∀ j, j ≠ k → (encodeOp k body s).efe.slot j = s'.efe.slot j) ∧
      withConfig s'.efe (encodeOp k body s).efe = s'.efe ∧ (encodeOp k body s).efe.live = s'.efe.live ∧
      (encodeOp k body s).efe.iter = s'.efe.iter ∧ (encodeOp k body s).efe.advcnt = s'.efe.advcnt ∧
      (encodeOp k body s).efe.seccnt = s'.efe.seccnt

/-! ## UID -/

/-- R98, R190, R191: ENCODE_UID builds the 31-byte frame where SLOT_CAP is at least 31, and otherwise fails with
BufferTooSmall; nothing else changes. -/
def Obligations.EncodeUidBuildsFrameOrFails : Prop :=
  decode 0x10001 = .encodeUid ∧
  ∀ s : State,
    (uidLayout s.params s.efe).length = 31 ∧
    exec .encodeUid s =
      .next (if 31 ≤ s.params.slotCap then
          { s with efe := { s.efe with slotUid := filled s.params (uidLayout s.params s.efe), stErr := 0, stSrc := 0 } }
        else uidFailed s 1)

/-! ## URL -/

/-- R99, R196: a URL that compresses to a remainder within the bound and the capacity is committed; nothing else changes. -/
def Obligations.EncodeUrlBuildsFrame : Prop :=
  ∀ (s : State) (c : Byte) (rem : List Byte), 1 ≤ s.efe.urlLen.toNat → s.efe.urlLen.toNat ≤ 32 →
    compressesTo s.efe (urlBytes s.efe) c rem → 1 ≤ rem.length → rem.length ≤ s.params.urlMaxRemainder →
    14 + rem.length ≤ s.params.slotCap →
      (urlLayout s.params s.efe c rem).length = 14 + rem.length ∧
      exec .encodeUrl s =
        .next { s with efe := { s.efe with slotUrl := filled s.params (urlLayout s.params s.efe c rem), stErr := 0, stSrc := 1 } }

/-- R197, R198: a URL_LEN above 32 fails with InvalidInput, before any other test; a URL_LEN of 0 with InvalidUrl. -/
def Obligations.UrlLengthOutOfRangeFails : Prop :=
  (∀ s : State, 32 < s.efe.urlLen.toNat → exec .encodeUrl s = .next (urlFailed s 3)) ∧
  ∀ s : State, s.efe.urlLen = 0 → exec .encodeUrl s = .next (urlFailed s 2)

/-- R195: with CFG_NOMATCH = 0 a URL that matches no table entry fails with InvalidUrl. -/
def Obligations.UnmatchedUrlFailsClosed : Prop :=
  ∀ s : State, 1 ≤ s.efe.urlLen.toNat → s.efe.urlLen.toNat ≤ 32 → s.efe.cfgNomatch = 0 →
    noTableMatch (urlBytes s.efe) → exec .encodeUrl s = .next (urlFailed s 2)

/-- R199: each whole table literal, under either policy, fails with InvalidUrl; and no other matched URL has an empty
remainder. -/
def Obligations.SchemeAloneIsInvalid : Prop :=
  (∀ s : State, 1 ≤ s.efe.urlLen.toNat → s.efe.urlLen.toNat ≤ 32 →
    urlBytes s.efe ∈ [litHttpWww, litHttpsWww, litHttp, litHttps] → exec .encodeUrl s = .next (urlFailed s 2)) ∧
  ∀ (u : List Byte) (c : Byte), schemeSearch schemeTable u = some (c, []) ↔
    (c, u) ∈ [(0x00, litHttpWww), (0x01, litHttpsWww), (0x02, litHttp), (0x03, litHttps)]

/-- R200: a remainder above URL_MAX_REMAINDER fails with InvalidUrl, whatever the capacity. -/
def Obligations.LongRemainderIsInvalid : Prop :=
  ∀ (s : State) (c : Byte) (rem : List Byte), 1 ≤ s.efe.urlLen.toNat → s.efe.urlLen.toNat ≤ 32 →
    compressesTo s.efe (urlBytes s.efe) c rem → s.params.urlMaxRemainder < rem.length →
      exec .encodeUrl s = .next (urlFailed s 2)

/-- R203: an accepted URL whose frame does not fit fails with BufferTooSmall. -/
def Obligations.UrlFrameTooLargeFails : Prop :=
  ∀ (s : State) (c : Byte) (rem : List Byte), 1 ≤ s.efe.urlLen.toNat → s.efe.urlLen.toNat ≤ 32 →
    compressesTo s.efe (urlBytes s.efe) c rem → 1 ≤ rem.length → rem.length ≤ s.params.urlMaxRemainder →
    s.params.slotCap < 14 + rem.length → exec .encodeUrl s = .next (urlFailed s 1)

/-- R194: the compressor's answer is a table match exactly when the URL begins with a literal and with no earlier one; else
the policy decides. -/
def Obligations.CompressorTakesFirstMatch : Prop :=
  ∀ u : List Byte,
    (∀ (c : Byte) (rem : List Byte) (policy : BitVec 1), tableMatch u c rem → urlCompress policy u = .ok (c, rem)) ∧
    (∀ (c : Byte) (rem : List Byte), schemeSearch schemeTable u = some (c, rem) → tableMatch u c rem) ∧
    (noTableMatch u → urlCompress 0 u = .error .invalidUrl ∧ urlCompress 1 u = .ok (0x02, u))

/-- R102: a scanner's expansion gives the URL back for every table match, and "http://" before it under the pass-through. -/
def Obligations.ExpansionInvertsCompression : Prop :=
  ∀ u : List Byte,
    (∀ (c : Byte) (rem : List Byte), schemeSearch schemeTable u = some (c, rem) → urlExpand c rem = some u) ∧
    (schemeSearch schemeTable u = none →
      urlCompress 1 u = .ok (0x02, u) ∧ urlExpand 0x02 u = some (litHttp ++ u) ∧ urlExpand 0x02 u ≠ some u)

/-! ## TLM -/

/-- R100, R215 to R224: ENCODE_TLM samples battery and temperature once each, whether or not it succeeds, builds the 27-byte
frame where SLOT_CAP is at least 27, and otherwise fails with BufferTooSmall; no counter, LIVE or adv_set. -/
def Obligations.EncodeTlmBuildsFrameOrFails : Prop :=
  decode 0x10003 = .encodeTlm ∧
  ∀ s : State,
    (tlmLayout s.params (battAnswer s) (tempAnswer s) s.efe.advcnt s.efe.seccnt).length = 27 ∧
    exec .encodeTlm s =
      .next (if 27 ≤ s.params.slotCap then
          { sampled s with
            efe := { s.efe with
              slotTlm := filled s.params (tlmLayout s.params (battAnswer s) (tempAnswer s) s.efe.advcnt s.efe.seccnt)
              stErr := 0
              stSrc := 2 } }
        else
          { sampled s with
            efe := { s.efe with slotTlm := emptied s.params, stErr := 1, stSrc := 2 }
            trace := (sampled s).trace ++ [.logErr 1 2] })

/-- R66: what may be repeated without effect, and what need not give the same slot. -/
def Obligations.RepeatedEventsIdempotent : Prop :=
  (∀ (a : Byte) (s t : State), exec (.rd a) s = .next t → readByte t a = readByte s a ∧ t.efe = s.efe) ∧
  (∀ (a d : Byte) (s t : State), a ≠ 0x00 → exec (.wr a d) s = .next t → exec (.wr a d) t = .next t) ∧
  (∀ s t t' : State, exec .encodeUid s = .next t → exec .encodeUid t = .next t' → t'.efe = t.efe) ∧
  (∀ s t t' : State, exec .encodeUrl s = .next t → exec .encodeUrl t = .next t' → t'.efe = t.efe) ∧
  ∃ s t t' : State, exec .encodeTlm s = .next t ∧ exec .encodeTlm t = .next t' ∧ t'.efe.slotTlm ≠ t.efe.slotTlm

/-! ## Rotation -/

/-- R233, R239, R240: the TLM entry rebuilds with the new SECCNT and the old ADVCNT, then pushes and counts. -/
def Obligations.TlmTickRebuildsAndPushes : Prop :=
  ∀ s : State, (s.efe.iter + 1).toNat % 9 = 0 → 27 ≤ s.params.slotCap →
    exec .tickActive s =
      .next
        { sampled s with
          efe := { s.efe with
            iter := s.efe.iter + 1
            seccnt := s.efe.seccnt + 1
            advcnt := s.efe.advcnt + 1
            live := 0x02
            stErr := 0
            stSrc := 2
            slotTlm := filled s.params (tlmLayout s.params (battAnswer s) (tempAnswer s) s.efe.advcnt (s.efe.seccnt + 1)) }
          trace := (sampled s).trace ++
            [.advSet (tlmLayout s.params (battAnswer s) (tempAnswer s) s.efe.advcnt (s.efe.seccnt + 1)) 27] }

/-- R241: with SLOT_CAP below 27 the rebuild fails, the slot is emptied, and nothing is pushed or counted. -/
def Obligations.TlmTickFailureKeepsRadio : Prop :=
  ∀ s : State, (s.efe.iter + 1).toNat % 9 = 0 → s.params.slotCap < 27 →
    exec .tickActive s =
      .next
        { sampled s with
          efe := { s.efe with
            iter := s.efe.iter + 1
            seccnt := s.efe.seccnt + 1
            stErr := 1
            stSrc := 2
            slotTlm := emptied s.params }
          trace := (sampled s).trace ++ [.logErr 1 2] }

/-- R234, R236: the URL entry pushes the URL slot as it stands; an empty slot sends and counts nothing. -/
def Obligations.UrlTickPushesSlot : Prop :=
  ∀ s : State, (s.efe.iter + 1).toNat % 9 ≠ 0 → (s.efe.iter + 1).toNat % 5 = 0 →
    exec .tickActive s =
      .next (if s.efe.slotUrl.len ≠ 0 then
          { s with
            efe := { s.efe with iter := s.efe.iter + 1, seccnt := s.efe.seccnt + 1, advcnt := s.efe.advcnt + 1, live := 0x01 }
            trace := s.trace ++ [.advSet (s.efe.slotUrl.buf.take s.efe.slotUrl.len.toNat) s.efe.slotUrl.len] }
        else { s with efe := { s.efe with iter := s.efe.iter + 1, seccnt := s.efe.seccnt + 1 } })

/-- R235, R236: the UID entry pushes the UID slot as it stands; an empty slot sends and counts nothing. -/
def Obligations.UidTickPushesSlot : Prop :=
  ∀ s : State, (s.efe.iter + 1).toNat % 9 ≠ 0 → (s.efe.iter + 1).toNat % 5 ≠ 0 → (s.efe.iter + 1).toNat % 3 = 0 →
    exec .tickActive s =
      .next (if s.efe.slotUid.len ≠ 0 then
          { s with
            efe := { s.efe with iter := s.efe.iter + 1, seccnt := s.efe.seccnt + 1, advcnt := s.efe.advcnt + 1, live := 0x00 }
            trace := s.trace ++ [.advSet (s.efe.slotUid.buf.take s.efe.slotUid.len.toNat) s.efe.slotUid.len] }
        else { s with efe := { s.efe with iter := s.efe.iter + 1, seccnt := s.efe.seccnt + 1 } })

/-- R237: a tick on which no divisor divides ITER only counts. -/
def Obligations.TickWithoutEntryOnlyCounts : Prop :=
  ∀ s : State, (s.efe.iter + 1).toNat % 9 ≠ 0 → (s.efe.iter + 1).toNat % 5 ≠ 0 → (s.efe.iter + 1).toNat % 3 ≠ 0 →
    exec .tickActive s = .next { s with efe := { s.efe with iter := s.efe.iter + 1, seccnt := s.efe.seccnt + 1 } }

/-- R231: no state, no sample, no output. -/
def Obligations.InactiveTickChangesNothing : Prop :=
  (∀ ignored : BitVec 15, decode (0b10#2 ++ ignored ++ 0#1) = .tickInactive) ∧
  ∀ s : State, exec .tickInactive s = .next s

/-- R242: the entry depends on ITER mod 45 alone, and any 45 consecutive values between wraps take TLM 5 times, URL 8, UID 8
and no entry 24 times. -/
def Obligations.ScheduleOverFortyFiveTicks : Prop :=
  (∀ n : Word, kindAt n = kindAt (BitVec.ofNat 32 (n.toNat % 45))) ∧
  (∀ first : Nat, first + 45 ≤ 2 ^ 32 →
    let kinds := (List.range 45).map fun j => kindAt (BitVec.ofNat 32 (first + j))
    kinds.count (some .tlm) = 5 ∧ kinds.count (some .url) = 8 ∧ kinds.count (some .uid) = 8 ∧ kinds.count none = 24) ∧
  (∀ n : Nat, 1 ≤ n → n ≤ 45 →
    (kindAt (BitVec.ofNat 32 n) = some .tlm ↔ n ∈ [9, 18, 27, 36, 45]) ∧
    (kindAt (BitVec.ofNat 32 n) = some .url ↔ n ∈ [5, 10, 15, 20, 25, 30, 35, 40]) ∧
    (kindAt (BitVec.ofNat 32 n) = some .uid ↔ n ∈ [3, 6, 12, 21, 24, 33, 39, 42]))

/-- R243: the tick on which ITER and SECCNT wrap rebuilds and pushes the TLM frame, and ADVCNT wraps by itself. -/
def Obligations.CountersWrapIntoTlmEntry : Prop :=
  ∀ s : State, s.efe.iter = 0xFFFFFFFF → s.efe.seccnt = 0xFFFFFFFF → 27 ≤ s.params.slotCap →
    ∃ t : State, exec .tickActive s = .next t ∧ t.efe.iter = 0 ∧ t.efe.seccnt = 0 ∧ t.efe.live = 0x02 ∧
      t.trace = (sampled s).trace ++ [.advSet (tlmLayout s.params (battAnswer s) (tempAnswer s) s.efe.advcnt 0) 27] ∧
      t.efe.slotTlm = filled s.params (tlmLayout s.params (battAnswer s) (tempAnswer s) s.efe.advcnt 0) ∧
      t.efe.advcnt = s.efe.advcnt + 1 ∧ (s.efe.advcnt = 0xFFFFFFFF → t.efe.advcnt = 0)

/-- R238: only an active tick pushes, and at most once; no event builds more than one TLM frame; an inactive tick does
neither. -/
def Obligations.AtMostOnePushPerEvent : Prop :=
  ∀ (i : Instr) (s t : State), exec i s = .next t →
    ∃ new : List PortEvent, t.trace = s.trace ++ new ∧ new.countP isBattSample ≤ 1 ∧ new.countP isAdvSet ≤ 1 ∧
      (i ≠ .tickActive → new.countP isAdvSet = 0) ∧ (i = .tickInactive → new = [])

/-- R277, R44: what each counter counts, that only RESET clears it, and that no event but an active tick changes one
otherwise. -/
def Obligations.CountersCountTicksAndPushes : Prop :=
  ∀ (i : Instr) (s t : State), exec i s = .next t →
    (i = .reset → t.efe.iter = 0 ∧ t.efe.advcnt = 0 ∧ t.efe.seccnt = 0) ∧
    (i ≠ .reset →
      ∃ new : List PortEvent, t.trace = s.trace ++ new ∧
        t.efe.iter = s.efe.iter + (if i = .tickActive then 1 else 0) ∧
        t.efe.seccnt = s.efe.seccnt + (if i = .tickActive then 1 else 0) ∧
        t.efe.advcnt = s.efe.advcnt + BitVec.ofNat 32 (new.countP isAdvSet) ∧
        (i ≠ .tickActive → t.efe.advcnt = s.efe.advcnt))

/-- R35, R236: LIVE changes only when something is pushed, and then names the kind pushed. -/
def Obligations.LiveNamesLastPush : Prop :=
  ∀ (i : Instr) (s t : State), i ≠ .reset → exec i s = .next t →
    ∃ new : List PortEvent, t.trace = s.trace ++ new ∧
      (new.countP isAdvSet = 0 → t.efe.live = s.efe.live) ∧
      (new.countP isAdvSet ≠ 0 → ∃ k : Kind, kindAt (s.efe.iter + 1) = some k ∧ t.efe.live = liveByte k)

/-! ## Whole-machine rules -/

/-- R38, R79, R245: each slot changes only on a build of its kind (a command, for TLM also the tick) or on RESET. -/
def Obligations.SlotsChangeOnlyByTheirBuild : Prop :=
  ∀ (i : Instr) (s t : State), i.wf = true → exec i s = .next t →
    (i ≠ .encodeUid → i ≠ .reset → t.efe.slotUid = s.efe.slotUid) ∧
    (i ≠ .encodeUrl → i ≠ .reset → t.efe.slotUrl = s.efe.slotUrl) ∧
    (i ≠ .encodeTlm → i ≠ .reset → (i = .tickActive → (s.efe.iter + 1).toNat % 9 ≠ 0) → t.efe.slotTlm = s.efe.slotTlm)

/-- R22, R49, R290: the configuration registers change only on a host write or on RESET, and no event changes the
parameters. -/
def Obligations.ConfigurationChangesOnlyByHost : Prop :=
  ∀ (i : Instr) (s t : State), exec i s = .next t →
    t.params = s.params ∧ ((∀ a d, i ≠ .wr a d) → i ≠ .reset → withConfig t.efe s.efe = t.efe)

/-- R301: an active tick and a TLM build read none of the host-writable registers: changing them before or after is the
same. -/
def Obligations.TicksIgnoreConfiguration : Prop :=
  ∀ (i : Instr), i = .tickActive ∨ i = .encodeTlm → ∀ (s : State) (c : Efe),
    ∃ t : State, exec i s = .next t ∧
      exec i { s with efe := withConfig s.efe c } = .next { t with efe := withConfig t.efe c }

/-- R45: nothing in EFE reads ERR or SRC: two states that differ only there stay so, but for a host read of STATUS. -/
def Obligations.StatusIsNeverReadInside : Prop :=
  ∀ (i : Instr) (s : State) (c r : BitVec 2), i ≠ .rd 0x01 →
    ∃ t t' : State, exec i s = .next t ∧ exec i { s with efe := { s.efe with stErr := c, stSrc := r } } = .next t' ∧
      { t' with efe := blankStatus t'.efe } = { t with efe := blankStatus t.efe }

/-- R264, R169, R145: every logged error is the one STATUS then shows, it is an error, and at most one is logged. -/
def Obligations.LoggedErrorIsRecorded : Prop :=
  ∀ (i : Instr) (s t : State), exec i s = .next t →
    ∃ new : List PortEvent, t.trace = s.trace ++ new ∧
      new.countP isLogErr ≤ 1 ∧
      (∀ c k : BitVec 2, .logErr c k ∈ new → t.efe.stErr = c ∧ t.efe.stSrc = k ∧ c ≠ 0) ∧
      (t.efe.stErr ≠ s.efe.stErr → t.efe.stErr ≠ 0 → .logErr t.efe.stErr t.efe.stSrc ∈ new)

/-- R261: BufferTooSmall needs a SLOT_CAP below 31 or a URL_MAX_REMAINDER above 17. -/
def Obligations.BufferTooSmallNeedsOtherParameters : Prop :=
  ∀ (i : Instr) (s t : State), 31 ≤ s.params.slotCap → s.params.urlMaxRemainder ≤ 17 → exec i s = .next t →
    ∃ new : List PortEvent, t.trace = s.trace ++ new ∧ ∀ k : BitVec 2, .logErr 1 k ∉ new

/-! ## Reset -/

/-- R290, R47: RESET sets every element to its reset value and puts nothing out. -/
def Obligations.ResetSetsEveryElement : Prop :=
  (∀ ignored : BitVec 16, decode (0b11#2 ++ ignored) = .reset) ∧
  ∀ s : State,
    exec .reset s =
      .next { s with efe := {
        cfgNomatch := 0
        rssi := 0x00
        ns := Vector.replicate 10 0x00
        devid := Vector.replicate 6 0x00
        urlLen := 0x00
        url := Vector.replicate 32 0x00
        stErr := 0
        stSrc := 3
        iter := 0
        advcnt := 0
        seccnt := 0
        slotUid := emptied s.params
        slotUrl := emptied s.params
        slotTlm := emptied s.params
        live := 0xFF } }

/-- R290's example: what the host reads right after reset. -/
def Obligations.ReadsRightAfterReset : Prop :=
  ∀ s t : State, exec .reset s = .next t →
    readByte t 0x01 = 0x0C ∧ readByte t 0x4C = 0x00 ∧ readByte t 0x4F = 0xFF ∧
    ∀ a : Byte, a ≠ 0x01 → a ≠ 0x4F → readByte t a = 0x00

/-- The state after reset meets the invariant. -/
def Obligations.ResetMeetsInvariant : Prop :=
  Inv State.reset ∧ ∀ s t : State, s.params.legal → exec .reset s = .next t → Inv t

/-! ## Headlines -/

/-- R35, R38 to R43: every step from a state that meets the invariant gives one that does. -/
def Obligations.StepKeepsInvariant : Prop :=
  ∀ s t : State, Inv s → step s = .next t → Inv t

/-- R171, R41: whatever a step hands to the radio is one whole, patched frame of a kind, within the capacity. -/
def Obligations.OnlyWholeFramesAreSent : Prop :=
  ∀ s t : State, Inv s → step s = .next t →
    ∃ new : List PortEvent, t.trace = s.trace ++ new ∧
      ∀ (bytes : List Byte) (n : Byte), .advSet bytes n ∈ new → WholeFrame s.params bytes n
end

