-- ==== Sys2Proof/Laws/State.lean ====
section
/-! SUPPORT. One small lemma for each field and each named update of the state, so that no proof unfolds a record update;
and the equations of the small tables (kinds, error codes). -/

namespace Sys2Proof.Laws

open Sys2Proof Sys2Proof.Machine

/-! ## emit -/

@[simp] theorem emit_params (x : PortEvent) (s : State) : (emit x s).params = s.params := rfl
@[simp] theorem emit_efe (x : PortEvent) (s : State) : (emit x s).efe = s.efe := rfl
@[simp] theorem emit_inputs (x : PortEvent) (s : State) : (emit x s).inputs = s.inputs := rfl
@[simp] theorem emit_battPort (x : PortEvent) (s : State) : (emit x s).battPort = s.battPort := rfl
@[simp] theorem emit_tempPort (x : PortEvent) (s : State) : (emit x s).tempPort = s.tempPort := rfl
@[simp] theorem emit_draws (x : PortEvent) (s : State) : (emit x s).draws = s.draws := rfl
@[simp] theorem emit_trace (x : PortEvent) (s : State) : (emit x s).trace = s.trace ++ [x] := rfl

/-! ## setStatus -/

@[simp] theorem setStatus_cfgNomatch (e : Efe) (c r : BitVec 2) : (e.setStatus c r).cfgNomatch = e.cfgNomatch := rfl
@[simp] theorem setStatus_rssi (e : Efe) (c r : BitVec 2) : (e.setStatus c r).rssi = e.rssi := rfl
@[simp] theorem setStatus_ns (e : Efe) (c r : BitVec 2) : (e.setStatus c r).ns = e.ns := rfl
@[simp] theorem setStatus_devid (e : Efe) (c r : BitVec 2) : (e.setStatus c r).devid = e.devid := rfl
@[simp] theorem setStatus_urlLen (e : Efe) (c r : BitVec 2) : (e.setStatus c r).urlLen = e.urlLen := rfl
@[simp] theorem setStatus_url (e : Efe) (c r : BitVec 2) : (e.setStatus c r).url = e.url := rfl
@[simp] theorem setStatus_stErr (e : Efe) (c r : BitVec 2) : (e.setStatus c r).stErr = c := rfl
@[simp] theorem setStatus_stSrc (e : Efe) (c r : BitVec 2) : (e.setStatus c r).stSrc = r := rfl
@[simp] theorem setStatus_iter (e : Efe) (c r : BitVec 2) : (e.setStatus c r).iter = e.iter := rfl
@[simp] theorem setStatus_advcnt (e : Efe) (c r : BitVec 2) : (e.setStatus c r).advcnt = e.advcnt := rfl
@[simp] theorem setStatus_seccnt (e : Efe) (c r : BitVec 2) : (e.setStatus c r).seccnt = e.seccnt := rfl
@[simp] theorem setStatus_slotUid (e : Efe) (c r : BitVec 2) : (e.setStatus c r).slotUid = e.slotUid := rfl
@[simp] theorem setStatus_slotUrl (e : Efe) (c r : BitVec 2) : (e.setStatus c r).slotUrl = e.slotUrl := rfl
@[simp] theorem setStatus_slotTlm (e : Efe) (c r : BitVec 2) : (e.setStatus c r).slotTlm = e.slotTlm := rfl
@[simp] theorem setStatus_live (e : Efe) (c r : BitVec 2) : (e.setStatus c r).live = e.live := rfl

/-! ## slot and setSlot -/

@[simp] theorem slot_uid (e : Efe) : e.slot .uid = e.slotUid := rfl
@[simp] theorem setSlot_at_uid (e : Efe) (sl : Slot) : e.setSlot .uid sl = { e with slotUid := sl } := rfl
@[simp] theorem slot_url (e : Efe) : e.slot .url = e.slotUrl := rfl
@[simp] theorem setSlot_at_url (e : Efe) (sl : Slot) : e.setSlot .url sl = { e with slotUrl := sl } := rfl
@[simp] theorem slot_tlm (e : Efe) : e.slot .tlm = e.slotTlm := rfl
@[simp] theorem setSlot_at_tlm (e : Efe) (sl : Slot) : e.setSlot .tlm sl = { e with slotTlm := sl } := rfl
@[simp] theorem setSlot_cfgNomatch (e : Efe) (k : Kind) (sl : Slot) : (e.setSlot k sl).cfgNomatch = e.cfgNomatch := by cases k <;> rfl
@[simp] theorem setSlot_rssi (e : Efe) (k : Kind) (sl : Slot) : (e.setSlot k sl).rssi = e.rssi := by cases k <;> rfl
@[simp] theorem setSlot_ns (e : Efe) (k : Kind) (sl : Slot) : (e.setSlot k sl).ns = e.ns := by cases k <;> rfl
@[simp] theorem setSlot_devid (e : Efe) (k : Kind) (sl : Slot) : (e.setSlot k sl).devid = e.devid := by cases k <;> rfl
@[simp] theorem setSlot_urlLen (e : Efe) (k : Kind) (sl : Slot) : (e.setSlot k sl).urlLen = e.urlLen := by cases k <;> rfl
@[simp] theorem setSlot_url (e : Efe) (k : Kind) (sl : Slot) : (e.setSlot k sl).url = e.url := by cases k <;> rfl
@[simp] theorem setSlot_stErr (e : Efe) (k : Kind) (sl : Slot) : (e.setSlot k sl).stErr = e.stErr := by cases k <;> rfl
@[simp] theorem setSlot_stSrc (e : Efe) (k : Kind) (sl : Slot) : (e.setSlot k sl).stSrc = e.stSrc := by cases k <;> rfl
@[simp] theorem setSlot_iter (e : Efe) (k : Kind) (sl : Slot) : (e.setSlot k sl).iter = e.iter := by cases k <;> rfl
@[simp] theorem setSlot_advcnt (e : Efe) (k : Kind) (sl : Slot) : (e.setSlot k sl).advcnt = e.advcnt := by cases k <;> rfl
@[simp] theorem setSlot_seccnt (e : Efe) (k : Kind) (sl : Slot) : (e.setSlot k sl).seccnt = e.seccnt := by cases k <;> rfl
@[simp] theorem setSlot_live (e : Efe) (k : Kind) (sl : Slot) : (e.setSlot k sl).live = e.live := by cases k <;> rfl
@[simp] theorem slot_setStatus (e : Efe) (c r : BitVec 2) (k : Kind) : (e.setStatus c r).slot k = e.slot k := by
  cases k <;> rfl
@[simp] theorem slot_setSlot_same (e : Efe) (k : Kind) (sl : Slot) : (e.setSlot k sl).slot k = sl := by cases k <;> rfl
theorem slot_setSlot_other (e : Efe) (k j : Kind) (sl : Slot) (h : j ≠ k) : (e.setSlot k sl).slot j = e.slot j := by
  cases k <;> cases j <;> first | rfl | exact absurd rfl h

/-! ## commit and fail -/

@[simp] theorem commit_params (k : Kind) (b : Scratch) (s : State) :
    (commit k b s).params = s.params := rfl
@[simp] theorem commit_efe (k : Kind) (b : Scratch) (s : State) :
    (commit k b s).efe = (s.efe.setSlot k ⟨b.scr, BitVec.ofNat 8 b.cur⟩).setStatus 0 (kindCode k) := rfl
@[simp] theorem commit_inputs (k : Kind) (b : Scratch) (s : State) :
    (commit k b s).inputs = s.inputs := rfl
@[simp] theorem commit_battPort (k : Kind) (b : Scratch) (s : State) :
    (commit k b s).battPort = s.battPort := rfl
@[simp] theorem commit_tempPort (k : Kind) (b : Scratch) (s : State) :
    (commit k b s).tempPort = s.tempPort := rfl
@[simp] theorem commit_draws (k : Kind) (b : Scratch) (s : State) :
    (commit k b s).draws = s.draws := rfl
@[simp] theorem commit_trace (k : Kind) (b : Scratch) (s : State) :
    (commit k b s).trace = s.trace := rfl
@[simp] theorem fail_params (k : Kind) (e : ErrKind) (s : State) :
    (fail k e s).params = s.params := rfl
@[simp] theorem fail_efe (k : Kind) (e : ErrKind) (s : State) :
    (fail k e s).efe = (s.efe.setSlot k (Slot.empty s.params)).setStatus (errCode e) (kindCode k) := rfl
@[simp] theorem fail_inputs (k : Kind) (e : ErrKind) (s : State) :
    (fail k e s).inputs = s.inputs := rfl
@[simp] theorem fail_battPort (k : Kind) (e : ErrKind) (s : State) :
    (fail k e s).battPort = s.battPort := rfl
@[simp] theorem fail_tempPort (k : Kind) (e : ErrKind) (s : State) :
    (fail k e s).tempPort = s.tempPort := rfl
@[simp] theorem fail_draws (k : Kind) (e : ErrKind) (s : State) :
    (fail k e s).draws = s.draws := rfl
@[simp] theorem fail_trace (k : Kind) (e : ErrKind) (s : State) :
    (fail k e s).trace = s.trace ++ [.logErr (errCode e) (kindCode k)] := rfl

/-! ## countTick -/

@[simp] theorem countTick_params (s : State) : (countTick s).params = s.params := rfl
@[simp] theorem countTick_efe (s : State) : (countTick s).efe = { s.efe with iter := s.efe.iter + 1, seccnt := s.efe.seccnt + 1 } := rfl
@[simp] theorem countTick_inputs (s : State) : (countTick s).inputs = s.inputs := rfl
@[simp] theorem countTick_battPort (s : State) : (countTick s).battPort = s.battPort := rfl
@[simp] theorem countTick_tempPort (s : State) : (countTick s).tempPort = s.tempPort := rfl
@[simp] theorem countTick_draws (s : State) : (countTick s).draws = s.draws := rfl
@[simp] theorem countTick_trace (s : State) : (countTick s).trace = s.trace := rfl

/-! ## Tables and reset values -/

@[simp] theorem kindCode_uid : kindCode .uid = 0 := rfl
@[simp] theorem kindCode_url : kindCode .url = 1 := rfl
@[simp] theorem kindCode_tlm : kindCode .tlm = 2 := rfl
@[simp] theorem frameType_uid : frameType .uid = 0x00 := rfl
@[simp] theorem frameType_url : frameType .url = 0x10 := rfl
@[simp] theorem frameType_tlm : frameType .tlm = 0x20 := rfl
@[simp] theorem liveByte_uid : liveByte .uid = 0x00 := rfl
@[simp] theorem liveByte_url : liveByte .url = 0x01 := rfl
@[simp] theorem liveByte_tlm : liveByte .tlm = 0x02 := rfl
@[simp] theorem errCode_bufferTooSmall : errCode .bufferTooSmall = 1 := rfl
@[simp] theorem errCode_invalidUrl : errCode .invalidUrl = 2 := rfl
@[simp] theorem errCode_invalidInput : errCode .invalidInput = 3 := rfl
@[simp] theorem counter_iter (e : Efe) : e.counter .iter = e.iter := rfl
@[simp] theorem counter_advcnt (e : Efe) : e.counter .advcnt = e.advcnt := rfl
@[simp] theorem counter_seccnt (e : Efe) : e.counter .seccnt = e.seccnt := rfl
@[simp] theorem empty_buf (p : Params) : (Slot.empty p).buf = List.replicate p.slotCap 0x00 := rfl
@[simp] theorem empty_len (p : Params) : (Slot.empty p).len = 0x00 := rfl
@[simp] theorem scrBegin_scr (p : Params) : (scrBegin p).scr = List.replicate p.slotCap 0x00 := rfl
@[simp] theorem scrBegin_cur (p : Params) : (scrBegin p).cur = 0 := rfl
@[simp] theorem patchLength_cur (b : Scratch) : (patchLength b).cur = b.cur := rfl
@[simp] theorem patchLength_scr (b : Scratch) : (patchLength b).scr = b.scr.set 7 (BitVec.ofNat 8 (b.cur - 8)) := rfl

end Sys2Proof.Laws
end

