-- ==== Sys2Proof/Laws/Ops.lean ====
section
/-! SUPPORT. For each shared operation, once, everything it can do: the ports, the scratch buffer and its appends, the two
ends of a build. Later proofs cite these and do not unfold the operations. -/

namespace Sys2Proof.Laws

open Sys2Proof Sys2Proof.Machine

/-! ## Ports -/

/-- The battery sample of the next draw: the port's next listed answer, else the free value. -/
def nextBatt (s : State) : Half := s.battPort.headD (Config.freeBattery s.draws)

/-- The temperature sample of a draw numbered `n`. -/
def nextTemp (s : State) (n : Nat) : Half := s.tempPort.headD (Config.freeTemperature n)

theorem sampleBatt_eq (s : State) :
    sampleBatt s = (nextBatt s,
      { s with battPort := s.battPort.tail, draws := s.draws + 1, trace := s.trace ++ [.battSample (nextBatt s)] }) := by
  unfold sampleBatt nextBatt
  split <;> rename_i h <;> simp [h, emit]

theorem sampleTemp_eq (s : State) :
    sampleTemp s = (nextTemp s s.draws,
      { s with tempPort := s.tempPort.tail, draws := s.draws + 1,
               trace := s.trace ++ [.tempSample (nextTemp s s.draws)] }) := by
  unfold sampleTemp nextTemp
  split <;> rename_i h <;> simp [h, emit]

theorem takeEvent_nil (s : State) (h : s.inputs = []) : takeEvent s = none := by simp [takeEvent, h]

theorem takeEvent_single (s : State) (w : EventWord) (rest : List Presented) (h : s.inputs = .single w :: rest) :
    takeEvent s = some (w, { s with inputs := rest }) := by simp [takeEvent, h]

/-- Taking one of two events presented together leaves the other next (R74). -/
theorem takeEvent_together (s : State) (host tick : EventWord) (rest : List Presented)
    (h : s.inputs = .together host tick :: rest) :
    takeEvent s = some (host, { s with inputs := .single tick :: rest, draws := s.draws + 1 }) ∨
    takeEvent s = some (tick, { s with inputs := .single host :: rest, draws := s.draws + 1 }) := by
  simp only [takeEvent, h]
  split
  · exact .inl rfl
  · exact .inr rfl

/-- Everything `takeEvent` can change: the event input and the draw counter. -/
theorem takeEvent_frame (s s' : State) (w : EventWord) (h : takeEvent s = some (w, s')) :
    s'.params = s.params ∧ s'.efe = s.efe ∧ s'.battPort = s.battPort ∧ s'.tempPort = s.tempPort ∧ s'.trace = s.trace := by
  unfold takeEvent at h
  split at h
  · simp at h
  · simp only [Option.some.injEq, Prod.mk.injEq] at h
    obtain ⟨-, rfl⟩ := h
    simp
  · split at h <;> simp only [Option.some.injEq, Prod.mk.injEq] at h <;> obtain ⟨-, rfl⟩ := h <;> simp

/-! ## Byte sequences -/

theorem be16_length (v : Half) : (be16 v).length = 2 := rfl
theorem be32_length (v : Word) : (be32 v).length = 4 := rfl

theorem writeAt_length (l : List Byte) (i : Nat) (bs : List Byte) (h : i + bs.length ≤ l.length) :
    (writeAt l i bs).length = l.length := by
  simp only [writeAt, List.length_append, List.length_take, List.length_drop]
  omega

/-- Writing just after the part already written, over zeros: the shape every build has. -/
theorem writeAt_append_zeros (l bs : List Byte) (n : Nat) :
    writeAt (l ++ List.replicate n 0x00) l.length bs = l ++ bs ++ List.replicate (n - bs.length) 0x00 := by
  simp [writeAt, List.drop_append, List.drop_replicate]

/-! ## The append primitives (R161 to R164), on a scratch buffer whose written part is `l`, zeros after it -/

/-- The scratch buffer of a machine with parameters `p` in which the bytes `l` have been written. -/
def written (p : Params) (l : List Byte) : Scratch where
  scr := l ++ List.replicate (p.slotCap - l.length) 0x00
  cur := l.length

theorem scrBegin_eq_written (p : Params) : scrBegin p = written p [] := by simp [scrBegin, written]

theorem appendBytes_fits (p : Params) (bs : List Byte) (b : Scratch) (h : b.cur + bs.length ≤ p.slotCap) :
    appendBytes p bs b = .ok { scr := writeAt b.scr b.cur bs, cur := b.cur + bs.length } := by
  simp [appendBytes, Nat.not_lt.mpr h]

theorem appendBytes_overflows (p : Params) (bs : List Byte) (b : Scratch) (h : p.slotCap < b.cur + bs.length) :
    appendBytes p bs b = .error .bufferTooSmall := by
  simp [appendBytes, h]

theorem appendBytes_written (p : Params) (bs l : List Byte) :
    appendBytes p bs (written p l) =
      if l.length + bs.length ≤ p.slotCap then .ok (written p (l ++ bs)) else .error .bufferTooSmall := by
  split
  · rename_i h
    rw [appendBytes_fits _ _ _ (by simpa [written] using h)]
    simp only [written, List.length_append, Except.ok.injEq, Scratch.mk.injEq, and_true]
    rw [writeAt_append_zeros, Nat.sub_sub]
  · rename_i h
    exact appendBytes_overflows _ _ _ (by simpa [written] using h)

/-- append_u8 is append_bytes of one byte, on every buffer a build can have. -/
theorem appendU8_eq_appendBytes (p : Params) (v : Byte) (b : Scratch) (h : b.scr.length = p.slotCap) :
    appendU8 p v b = appendBytes p [v] b := by
  unfold appendU8 appendBytes
  by_cases hc : b.cur + 1 > p.slotCap
  · simp [hc]
  · simp only [hc, List.length_singleton, if_false, Except.ok.injEq, Scratch.mk.injEq, and_true]
    rw [List.set_eq_take_append_cons_drop, if_pos (by omega)]
    simp [writeAt]

theorem written_length (p : Params) (l : List Byte) (h : l.length ≤ p.slotCap) :
    (written p l).scr.length = p.slotCap := by
  simp [written]; omega

theorem appendU8_written (p : Params) (v : Byte) (l : List Byte) (h : l.length ≤ p.slotCap) :
    appendU8 p v (written p l) =
      if l.length + 1 ≤ p.slotCap then .ok (written p (l ++ [v])) else .error .bufferTooSmall := by
  rw [appendU8_eq_appendBytes _ _ _ (written_length p l h), appendBytes_written]
  rfl

/-- The header and frame type byte as encode_header leaves them (R164): the length byte is still 0x00. -/
def headerBytes (p : Params) (ft : Byte) : List Byte :=
  p.hdrLow.toList ++ [0x00] ++ p.hdrHigh.toList ++ [ft]

@[simp] theorem headerBytes_length (p : Params) (ft : Byte) : (headerBytes p ft).length = 12 := by simp [headerBytes]

theorem encodeHeader_begin (p : Params) (ft : Byte) :
    encodeHeader p ft (scrBegin p) =
      if 12 ≤ p.slotCap then .ok (written p (headerBytes p ft)) else .error .bufferTooSmall := by
  unfold encodeHeader
  by_cases h : 12 ≤ p.slotCap
  · rw [if_neg (by simp; omega), if_pos h]
    have := writeAt_append_zeros [] (headerBytes p ft) p.slotCap
    simp only [List.nil_append, List.length_nil, headerBytes_length] at this
    simp only [scrBegin_scr, written, headerBytes_length, Except.ok.injEq, Scratch.mk.injEq, and_true]
    exact this
  · rw [if_pos (by simp; omega), if_neg h]

/-- A finished frame with the payload `l` after the frame type byte: R96, with the length byte of R167 in place. -/
def frameBytes (p : Params) (ft : Byte) (l : List Byte) : List Byte :=
  p.hdrLow.toList ++ [BitVec.ofNat 8 (4 + l.length)] ++ p.hdrHigh.toList ++ [ft] ++ l

@[simp] theorem frameBytes_length (p : Params) (ft : Byte) (l : List Byte) :
    (frameBytes p ft l).length = 12 + l.length := by simp [frameBytes]; omega

theorem patchLength_written (p : Params) (ft : Byte) (l : List Byte) :
    patchLength (written p (headerBytes p ft ++ l)) = written p (frameBytes p ft l) := by
  have e : 12 + l.length - 8 = 4 + l.length := by omega
  have hs : ∀ (a r : List Byte) (v : Byte), a.length = 7 → (a ++ 0x00 :: r).set 7 v = a ++ v :: r := by
    intro a r v ha
    rw [List.set_append, if_neg (by omega), ha]
    rfl
  simp only [patchLength, written, List.length_append, headerBytes_length, frameBytes_length, Scratch.mk.injEq, and_true, e]
  simp only [headerBytes, frameBytes, List.append_assoc, List.cons_append, List.nil_append]
  exact hs _ _ _ (by simp)

/-! ## encode_op (R170) -/

theorem encodeOp_error (k : Kind) (body : State → State × Except ErrKind Scratch) (s s' : State) (e : ErrKind)
    (h : body s = (s', .error e)) : encodeOp k body s = fail k e s' := by simp [encodeOp, h]

theorem encodeOp_ok (k : Kind) (body : State → State × Except ErrKind Scratch) (s s' : State) (b : Scratch)
    (h : body s = (s', .ok b)) : encodeOp k body s = commit k b s' := by simp [encodeOp, h]

end Sys2Proof.Laws
end

