-- ==== Sys2Proof/Laws/Encode.lean ====
section
/-! SUPPORT. What each build body gives, in one equation each (R190, R196, R215): a finished frame where it fits, else the
error; and what the URL prefix compressor can answer (R194). -/

namespace Sys2Proof.Laws

open Sys2Proof Sys2Proof.Machine

/-! ## A build is its header, its payload in pieces, and the length byte -/

/-- The payload of a build, piece by piece, appended after the header; any piece that crosses SLOT_CAP ends the build. -/
def appendAll (p : Params) : List (List Byte) → Scratch → Except ErrKind Scratch
  | [], b => pure b
  | bs :: rest, b => appendBytes p bs b >>= appendAll p rest

theorem appendAll_written (p : Params) (pieces : List (List Byte)) :
    ∀ l : List Byte, l.length ≤ p.slotCap →
      appendAll p pieces (written p l) =
        if l.length + pieces.flatten.length ≤ p.slotCap then .ok (written p (l ++ pieces.flatten))
        else .error .bufferTooSmall := by
  induction pieces with
  | nil => intro l hl; simp [appendAll, hl, pure, Except.pure]
  | cons bs rest ih =>
    intro l hl
    rw [appendAll, appendBytes_written]
    by_cases h : l.length + bs.length ≤ p.slotCap
    · rw [if_pos h]
      have := ih (l ++ bs) (by simpa using h)
      simp only [bind, Except.bind, this, List.flatten_cons, List.length_append, List.append_assoc, Nat.add_assoc]
    · rw [if_neg h, if_neg (by simp only [List.flatten_cons, List.length_append]; omega)]
      rfl

/-- Header, payload and length byte together: R164, R161 and R167 in one equation. -/
theorem build_eq (p : Params) (ft : Byte) (pieces : List (List Byte)) :
    (do let b ← encodeHeader p ft (scrBegin p)
        let b ← appendAll p pieces b
        return patchLength b : Except ErrKind Scratch) =
      if 12 + pieces.flatten.length ≤ p.slotCap then .ok (written p (frameBytes p ft pieces.flatten))
      else .error .bufferTooSmall := by
  rw [encodeHeader_begin]
  by_cases h : 12 ≤ p.slotCap
  · rw [if_pos h]
    simp only [bind, Except.bind, pure, Except.pure]
    rw [appendAll_written _ _ _ (by simpa using h), headerBytes_length]
    by_cases hf : 12 + pieces.flatten.length ≤ p.slotCap
    · simp only [if_pos hf, patchLength_written]
    · simp only [if_neg hf]
  · rw [if_neg h, if_neg (by omega)]
    rfl

/-- encode_header leaves a buffer of SLOT_CAP bytes. -/
theorem encodeHeader_begin_length (p : Params) (ft : Byte) (b : Scratch) (h : encodeHeader p ft (scrBegin p) = .ok b) :
    b.scr.length = p.slotCap := by
  rw [encodeHeader_begin] at h
  split at h
  · cases h; exact written_length _ _ (by simpa using ‹12 ≤ p.slotCap›)
  · cases h

/-- A finished append leaves a buffer of SLOT_CAP bytes. -/
theorem appendBytes_length (p : Params) (bs : List Byte) (b b' : Scratch) (hb : b.scr.length = p.slotCap)
    (h : appendBytes p bs b = .ok b') : b'.scr.length = p.slotCap := by
  unfold appendBytes at h
  split at h
  · cases h
  · cases h
    rw [writeAt_length _ _ _ (by omega), hb]

theorem appendU8_bind (p : Params) (v : Byte) (b : Scratch) (f : Scratch → Except ErrKind Scratch)
    (h : b.scr.length = p.slotCap) : (appendU8 p v b >>= f) = (appendBytes p [v] b >>= f) := by
  rw [appendU8_eq_appendBytes _ _ _ h]

/-! ## The three builds -/

/-- The pieces of build_uid after the frame type byte (R190). -/
def uidPieces (e : Efe) : List (List Byte) :=
  [[e.rssi], e.ns.toList, e.devid.toList.reverse, List.replicate 2 0x00]

theorem bind_congr_ok {α : Type} (x : Except ErrKind α) (f g : α → Except ErrKind Scratch)
    (h : ∀ a, x = .ok a → f a = g a) : (x >>= f) = (x >>= g) := by
  cases x with
  | error e => rfl
  | ok a => exact h a rfl

theorem buildUid_eq (p : Params) (e : Efe) :
    buildUid p e =
      if 12 + (uidPieces e).flatten.length ≤ p.slotCap then .ok (written p (frameBytes p 0x00 (uidPieces e).flatten))
      else .error .bufferTooSmall := by
  rw [← build_eq]
  refine bind_congr_ok _ _ _ fun b hb => ?_
  rw [appendU8_bind _ _ _ _ (encodeHeader_begin_length _ _ _ hb)]
  simp only [appendAll, uidPieces, bind_assoc, pure_bind]

/-- The pieces of build_tlm after the frame type byte (R215). -/
def tlmPieces (batt temp : Half) (adv sec : Word) : List (List Byte) :=
  [[0x00], be16 batt, be16 temp, be32 adv, be32 sec, List.replicate 2 0x00]

theorem tlmFrame_eq (p : Params) (batt temp : Half) (adv sec : Word) :
    tlmFrame p batt temp adv sec =
      if 12 + (tlmPieces batt temp adv sec).flatten.length ≤ p.slotCap then
        .ok (written p (frameBytes p 0x20 (tlmPieces batt temp adv sec).flatten))
      else .error .bufferTooSmall := by
  rw [← build_eq]
  refine bind_congr_ok _ _ _ fun b hb => ?_
  rw [appendU8_bind _ _ _ _ (encodeHeader_begin_length _ _ _ hb)]
  simp only [appendAll, tlmPieces, appendU16be, appendU32be, bind_assoc, pure_bind]

/-- The pieces of build_url after the frame type byte (R196). -/
def urlPieces (e : Efe) (c : Byte) (rem : List Byte) : List (List Byte) := [[e.rssi], [c], rem]

theorem buildUrl_error (p : Params) (e : Efe) (k : ErrKind) (h : urlPayload p e = .error k) :
    buildUrl p e = .error k := by
  simp [buildUrl, h, bind, Except.bind]

theorem buildUrl_ok (p : Params) (e : Efe) (c : Byte) (rem : List Byte) (h : urlPayload p e = .ok (c, rem)) :
    buildUrl p e =
      if 12 + (urlPieces e c rem).flatten.length ≤ p.slotCap then
        .ok (written p (frameBytes p 0x10 (urlPieces e c rem).flatten))
      else .error .bufferTooSmall := by
  rw [← build_eq]
  unfold buildUrl
  rw [h]
  show (encodeHeader p (frameType .url) (scrBegin p) >>= _) = _
  refine bind_congr_ok _ _ _ fun b hb => ?_
  have hl := encodeHeader_begin_length _ _ _ hb
  rw [appendU8_bind _ _ _ _ hl]
  simp only [appendAll, urlPieces, bind_assoc]
  refine bind_congr_ok _ _ _ fun b' hb' => ?_
  rw [appendU8_bind _ _ _ _ (appendBytes_length _ _ _ _ hl hb')]
  simp only [pure_bind]

theorem uidPieces_length (e : Efe) : (uidPieces e).flatten.length = 19 := by simp [uidPieces]
theorem tlmPieces_length (batt temp : Half) (adv sec : Word) :
    (tlmPieces batt temp adv sec).flatten.length = 15 := by simp [tlmPieces, be16, be32]
theorem urlPieces_length (e : Efe) (c : Byte) (rem : List Byte) :
    (urlPieces e c rem).flatten.length = 2 + rem.length := by simp [urlPieces]; omega

/-- The build of the TLM frame samples battery, then temperature, whatever becomes of it (R222). -/
theorem buildTlm_eq (adv sec : Word) (s : State) :
    buildTlm adv sec s =
      ({ s with battPort := s.battPort.tail, tempPort := s.tempPort.tail, draws := s.draws + 2,
                trace := s.trace ++ [.battSample (nextBatt s), .tempSample (nextTemp s (s.draws + 1))] },
       tlmFrame s.params (nextBatt s) (nextTemp s (s.draws + 1)) adv sec) := by
  simp [buildTlm, sampleBatt_eq, sampleTemp_eq, nextTemp]

/-! ## The URL prefix compressor (R194) -/

/-- A table match names a row of the table, of which the URL begins with the literal, and no earlier row does. -/
theorem schemeSearch_some (rows : List (Byte × List Byte)) (u : List Byte) (c : Byte) (rem : List Byte)
    (h : schemeSearch rows u = some (c, rem)) : ∃ lit, (c, lit) ∈ rows ∧ u = lit ++ rem := by
  induction rows with
  | nil => simp [schemeSearch] at h
  | cons r rows ih =>
    obtain ⟨c', lit⟩ := r
    rw [schemeSearch] at h
    split at h
    · rename_i hm
      simp only [Option.some.injEq, Prod.mk.injEq] at h
      obtain ⟨rfl, rfl⟩ := h
      refine ⟨lit, by simp, ?_⟩
      conv_lhs => rw [← List.take_append_drop lit.length u, hm.2]
    · obtain ⟨lit', hm, hu⟩ := ih h
      exact ⟨lit', by simp [hm], hu⟩

/-- What is left to send is never empty nor longer than URL_MAX_REMAINDER (R199, R200). -/
theorem urlPayload_ok (p : Params) (e : Efe) (c : Byte) (rem : List Byte) (h : urlPayload p e = .ok (c, rem)) :
    1 ≤ rem.length ∧ rem.length ≤ p.urlMaxRemainder := by
  unfold urlPayload at h
  split at h
  · cases h
  split at h
  · cases h
  split at h
  · cases h
  split at h
  · cases h
  split at h
  · cases h
  · cases h; omega

end Sys2Proof.Laws
end

