-- ==== Sys2Proof/Laws/Operands.lean ====
section
/-! SUPPORT. The address map (R61), one lemma for each of its ranges, and the ranges as one case split. -/

namespace Sys2Proof.Laws

open Sys2Proof Sys2Proof.Machine

theorem regAt_cmd (a : Byte) (h : a.toNat = 0x00) : regAt a = .cmd := by
  unfold regAt
  rw [if_pos (by omega)]

theorem regAt_status (a : Byte) (h : a.toNat = 0x01) : regAt a = .status := by
  unfold regAt
  rw [if_neg (by omega), if_pos (by omega)]

theorem regAt_config (a : Byte) (h : a.toNat = 0x02) : regAt a = .config := by
  unfold regAt
  rw [if_neg (by omega), if_neg (by omega), if_pos (by omega)]

theorem regAt_rssi (a : Byte) (h : a.toNat = 0x03) : regAt a = .rssi := by
  unfold regAt
  rw [if_neg (by omega), if_neg (by omega), if_neg (by omega), if_pos (by omega)]

theorem regAt_ns (a : Byte) (h : 0x04 ≤ a.toNat ∧ a.toNat ≤ 0x0D) : regAt a = .ns ⟨a.toNat - 0x04, by omega⟩ := by
  unfold regAt
  rw [if_neg (by omega), if_neg (by omega), if_neg (by omega), if_neg (by omega), dif_pos h]

theorem regAt_devid (a : Byte) (h : 0x0E ≤ a.toNat ∧ a.toNat ≤ 0x13) : regAt a = .devid ⟨a.toNat - 0x0E, by omega⟩ := by
  unfold regAt
  rw [if_neg (by omega), if_neg (by omega), if_neg (by omega), if_neg (by omega), dif_neg (by omega), 
    dif_pos h]

theorem regAt_urlLen (a : Byte) (h : a.toNat = 0x14) : regAt a = .urlLen := by
  unfold regAt
  rw [if_neg (by omega), if_neg (by omega), if_neg (by omega), if_neg (by omega), dif_neg (by omega), 
    dif_neg (by omega), if_pos (by omega)]

theorem regAt_reserved_low (a : Byte) (h : 0x15 ≤ a.toNat ∧ a.toNat ≤ 0x1F) : regAt a = .reserved := by
  unfold regAt
  rw [if_neg (by omega), if_neg (by omega), if_neg (by omega), if_neg (by omega), dif_neg (by omega), 
    dif_neg (by omega), if_neg (by omega), if_pos (by omega)]

theorem regAt_url (a : Byte) (h : 0x20 ≤ a.toNat ∧ a.toNat ≤ 0x3F) : regAt a = .url ⟨a.toNat - 0x20, by omega⟩ := by
  unfold regAt
  rw [if_neg (by omega), if_neg (by omega), if_neg (by omega), if_neg (by omega), dif_neg (by omega), 
    dif_neg (by omega), if_neg (by omega), if_neg (by omega), dif_pos h]

theorem regAt_iter (a : Byte) (h : 0x40 ≤ a.toNat ∧ a.toNat ≤ 0x43) : regAt a = .counter .iter ⟨a.toNat - 0x40, by omega⟩ := by
  unfold regAt
  rw [if_neg (by omega), if_neg (by omega), if_neg (by omega), if_neg (by omega), dif_neg (by omega), 
    dif_neg (by omega), if_neg (by omega), if_neg (by omega), dif_neg (by omega), dif_pos h]

theorem regAt_advcnt (a : Byte) (h : 0x44 ≤ a.toNat ∧ a.toNat ≤ 0x47) : regAt a = .counter .advcnt ⟨a.toNat - 0x44, by omega⟩ := by
  unfold regAt
  rw [if_neg (by omega), if_neg (by omega), if_neg (by omega), if_neg (by omega), dif_neg (by omega), 
    dif_neg (by omega), if_neg (by omega), if_neg (by omega), dif_neg (by omega), 
    dif_neg (by omega), dif_pos h]

theorem regAt_seccnt (a : Byte) (h : 0x48 ≤ a.toNat ∧ a.toNat ≤ 0x4B) : regAt a = .counter .seccnt ⟨a.toNat - 0x48, by omega⟩ := by
  unfold regAt
  rw [if_neg (by omega), if_neg (by omega), if_neg (by omega), if_neg (by omega), dif_neg (by omega), 
    dif_neg (by omega), if_neg (by omega), if_neg (by omega), dif_neg (by omega), 
    dif_neg (by omega), dif_neg (by omega), dif_pos h]

theorem regAt_slen_uid (a : Byte) (h : a.toNat = 0x4C) : regAt a = .slen .uid := by
  unfold regAt
  rw [if_neg (by omega), if_neg (by omega), if_neg (by omega), if_neg (by omega), dif_neg (by omega), 
    dif_neg (by omega), if_neg (by omega), if_neg (by omega), dif_neg (by omega), 
    dif_neg (by omega), dif_neg (by omega), dif_neg (by omega), if_pos (by omega)]

theorem regAt_slen_url (a : Byte) (h : a.toNat = 0x4D) : regAt a = .slen .url := by
  unfold regAt
  rw [if_neg (by omega), if_neg (by omega), if_neg (by omega), if_neg (by omega), dif_neg (by omega), 
    dif_neg (by omega), if_neg (by omega), if_neg (by omega), dif_neg (by omega), 
    dif_neg (by omega), dif_neg (by omega), dif_neg (by omega), if_neg (by omega), 
    if_pos (by omega)]

theorem regAt_slen_tlm (a : Byte) (h : a.toNat = 0x4E) : regAt a = .slen .tlm := by
  unfold regAt
  rw [if_neg (by omega), if_neg (by omega), if_neg (by omega), if_neg (by omega), dif_neg (by omega), 
    dif_neg (by omega), if_neg (by omega), if_neg (by omega), dif_neg (by omega), 
    dif_neg (by omega), dif_neg (by omega), dif_neg (by omega), if_neg (by omega), 
    if_neg (by omega), if_pos (by omega)]

theorem regAt_live (a : Byte) (h : a.toNat = 0x4F) : regAt a = .live := by
  unfold regAt
  rw [if_neg (by omega), if_neg (by omega), if_neg (by omega), if_neg (by omega), dif_neg (by omega), 
    dif_neg (by omega), if_neg (by omega), if_neg (by omega), dif_neg (by omega), 
    dif_neg (by omega), dif_neg (by omega), dif_neg (by omega), if_neg (by omega), 
    if_neg (by omega), if_neg (by omega), if_pos (by omega)]

theorem regAt_window_uid (a : Byte) (h : 0x50 ≤ a.toNat ∧ a.toNat ≤ 0x6F) : regAt a = .window .uid ⟨a.toNat - 0x50, by omega⟩ := by
  unfold regAt
  rw [if_neg (by omega), if_neg (by omega), if_neg (by omega), if_neg (by omega), dif_neg (by omega), 
    dif_neg (by omega), if_neg (by omega), if_neg (by omega), dif_neg (by omega), 
    dif_neg (by omega), dif_neg (by omega), dif_neg (by omega), if_neg (by omega), 
    if_neg (by omega), if_neg (by omega), if_neg (by omega), dif_pos h]

theorem regAt_window_url (a : Byte) (h : 0x70 ≤ a.toNat ∧ a.toNat ≤ 0x8F) : regAt a = .window .url ⟨a.toNat - 0x70, by omega⟩ := by
  unfold regAt
  rw [if_neg (by omega), if_neg (by omega), if_neg (by omega), if_neg (by omega), dif_neg (by omega), 
    dif_neg (by omega), if_neg (by omega), if_neg (by omega), dif_neg (by omega), 
    dif_neg (by omega), dif_neg (by omega), dif_neg (by omega), if_neg (by omega), 
    if_neg (by omega), if_neg (by omega), if_neg (by omega), dif_neg (by omega), dif_pos h]

theorem regAt_window_tlm (a : Byte) (h : 0x90 ≤ a.toNat ∧ a.toNat ≤ 0xAF) : regAt a = .window .tlm ⟨a.toNat - 0x90, by omega⟩ := by
  unfold regAt
  rw [if_neg (by omega), if_neg (by omega), if_neg (by omega), if_neg (by omega), dif_neg (by omega), 
    dif_neg (by omega), if_neg (by omega), if_neg (by omega), dif_neg (by omega), 
    dif_neg (by omega), dif_neg (by omega), dif_neg (by omega), if_neg (by omega), 
    if_neg (by omega), if_neg (by omega), if_neg (by omega), dif_neg (by omega), dif_neg (by omega), 
    dif_pos h]

theorem regAt_reserved_high (a : Byte) (h : 0xB0 ≤ a.toNat) : regAt a = .reserved := by
  unfold regAt
  rw [if_neg (by omega), if_neg (by omega), if_neg (by omega), if_neg (by omega), dif_neg (by omega), 
    dif_neg (by omega), if_neg (by omega), if_neg (by omega), dif_neg (by omega), 
    dif_neg (by omega), dif_neg (by omega), dif_neg (by omega), if_neg (by omega), 
    if_neg (by omega), if_neg (by omega), if_neg (by omega), dif_neg (by omega), dif_neg (by omega), 
    dif_neg (by omega)]

/-- Every address is in one of the ranges of R61. -/
theorem address_ranges (a : Byte) :
    a.toNat = 0x00 ∨
    a.toNat = 0x01 ∨
    a.toNat = 0x02 ∨
    a.toNat = 0x03 ∨
    (0x04 ≤ a.toNat ∧ a.toNat ≤ 0x0D) ∨
    (0x0E ≤ a.toNat ∧ a.toNat ≤ 0x13) ∨
    a.toNat = 0x14 ∨
    (0x15 ≤ a.toNat ∧ a.toNat ≤ 0x1F) ∨
    (0x20 ≤ a.toNat ∧ a.toNat ≤ 0x3F) ∨
    (0x40 ≤ a.toNat ∧ a.toNat ≤ 0x43) ∨
    (0x44 ≤ a.toNat ∧ a.toNat ≤ 0x47) ∨
    (0x48 ≤ a.toNat ∧ a.toNat ≤ 0x4B) ∨
    a.toNat = 0x4C ∨
    a.toNat = 0x4D ∨
    a.toNat = 0x4E ∨
    a.toNat = 0x4F ∨
    (0x50 ≤ a.toNat ∧ a.toNat ≤ 0x6F) ∨
    (0x70 ≤ a.toNat ∧ a.toNat ≤ 0x8F) ∨
    (0x90 ≤ a.toNat ∧ a.toNat ≤ 0xAF) ∨
    0xB0 ≤ a.toNat := by omega

/-- A read-only or reserved register drops a write (R37, R65). -/
theorem regWrite_drop (e : Efe) (d : Byte) (r : Reg)
    (h : r = .cmd ∨ r = .status ∨ (∃ c j, r = .counter c j) ∨ (∃ k, r = .slen k) ∨ r = .live ∨ (∃ k i, r = .window k i) ∨
      r = .reserved) : regWrite e r d = e := by
  rcases h with rfl | rfl | ⟨c, j, rfl⟩ | ⟨k, rfl⟩ | rfl | ⟨k, i, rfl⟩ | rfl <;> rfl

/-- A write changes the registers of configuration and nothing else. -/
theorem regWrite_frame (e : Efe) (r : Reg) (d : Byte) :
    (regWrite e r d).stErr = e.stErr ∧ (regWrite e r d).stSrc = e.stSrc ∧ (regWrite e r d).iter = e.iter ∧
    (regWrite e r d).advcnt = e.advcnt ∧ (regWrite e r d).seccnt = e.seccnt ∧ (regWrite e r d).slotUid = e.slotUid ∧
    (regWrite e r d).slotUrl = e.slotUrl ∧ (regWrite e r d).slotTlm = e.slotTlm ∧ (regWrite e r d).live = e.live := by
  cases r <;> exact ⟨rfl, rfl, rfl, rfl, rfl, rfl, rfl, rfl, rfl⟩

/-- A host write of CMD is the command its code decodes to (R142). -/
theorem hostCommand_eq (d : Byte) (s : State) : hostCommand d s = exec (decodeCommand d) s := by
  unfold hostCommand decodeCommand
  repeat' split
  all_goals rfl

end Sys2Proof.Laws
end

