-- ==== Sys2Proof/Laws/Rotation.lean ====
section
/-! SUPPORT. The rotation table as a chain of tests, what a push can do, and each event's meaning as one equation. -/

namespace Sys2Proof.Laws

open Sys2Proof Sys2Proof.Machine

/-- ROTATION_TABLE, first match (R232 to R235, R237). -/
theorem selectEntry_eq (n : Word) :
    selectEntry rotationTable n =
      if n.toNat % 9 = 0 then some ⟨9, .tlm, true⟩
      else if n.toNat % 5 = 0 then some ⟨5, .url, false⟩
      else if n.toNat % 3 = 0 then some ⟨3, .uid, false⟩
      else none := by
  simp [selectEntry, rotationTable]

theorem selectEntry_tlm (n : Word) (h9 : n.toNat % 9 = 0) : selectEntry rotationTable n = some ⟨9, .tlm, true⟩ := by
  rw [selectEntry_eq, if_pos h9]
theorem selectEntry_url (n : Word) (h9 : n.toNat % 9 ≠ 0) (h5 : n.toNat % 5 = 0) :
    selectEntry rotationTable n = some ⟨5, .url, false⟩ := by
  rw [selectEntry_eq, if_neg h9, if_pos h5]
theorem selectEntry_uid (n : Word) (h9 : n.toNat % 9 ≠ 0) (h5 : n.toNat % 5 ≠ 0) (h3 : n.toNat % 3 = 0) :
    selectEntry rotationTable n = some ⟨3, .uid, false⟩ := by
  rw [selectEntry_eq, if_neg h9, if_neg h5, if_pos h3]
theorem selectEntry_none (n : Word) (h9 : n.toNat % 9 ≠ 0) (h5 : n.toNat % 5 ≠ 0) (h3 : n.toNat % 3 ≠ 0) :
    selectEntry rotationTable n = none := by
  rw [selectEntry_eq, if_neg h9, if_neg h5, if_neg h3]

/-- The four ways an active tick can go (R233 to R235, R237), by the value of ITER after the increment (R239). -/
theorem dispatch_cases (s : State) :
    (s.efe.iter.toNat % 9 = 0 ∧ dispatch s = push .tlm (encodeOp .tlm (buildTlm s.efe.advcnt s.efe.seccnt) s)) ∨
    (s.efe.iter.toNat % 9 ≠ 0 ∧ s.efe.iter.toNat % 5 = 0 ∧ dispatch s = push .url s) ∨
    (s.efe.iter.toNat % 9 ≠ 0 ∧ s.efe.iter.toNat % 5 ≠ 0 ∧ s.efe.iter.toNat % 3 = 0 ∧ dispatch s = push .uid s) ∨
    (s.efe.iter.toNat % 9 ≠ 0 ∧ s.efe.iter.toNat % 5 ≠ 0 ∧ s.efe.iter.toNat % 3 ≠ 0 ∧ dispatch s = s) := by
  by_cases h9 : s.efe.iter.toNat % 9 = 0
  · exact .inl ⟨h9, by rw [dispatch, selectEntry_tlm _ h9]; rfl⟩
  by_cases h5 : s.efe.iter.toNat % 5 = 0
  · exact .inr (.inl ⟨h9, h5, by rw [dispatch, selectEntry_url _ h9 h5]; rfl⟩)
  by_cases h3 : s.efe.iter.toNat % 3 = 0
  · exact .inr (.inr (.inl ⟨h9, h5, h3, by rw [dispatch, selectEntry_uid _ h9 h5 h3]; rfl⟩))
  · exact .inr (.inr (.inr ⟨h9, h5, h3, by rw [dispatch, selectEntry_none _ h9 h5 h3]⟩))

/-- push of a slot that holds a frame (R236). -/
theorem push_valid (k : Kind) (s : State) (h : (s.efe.slot k).len ≠ 0) :
    push k s =
      { s with efe := { s.efe with live := liveByte k, advcnt := s.efe.advcnt + 1 },
               trace := s.trace ++ [.advSet ((s.efe.slot k).buf.take (s.efe.slot k).len.toNat) (s.efe.slot k).len] } := by
  unfold push
  rw [if_pos h]
  rfl

/-- push of an empty slot (R236). -/
theorem push_empty (k : Kind) (s : State) (h : (s.efe.slot k).len = 0) : push k s = s := by
  simp [push, h]

theorem exec_nop (s : State) : exec .nop s = .next s := rfl
theorem exec_encodeUid (s : State) :
    exec .encodeUid s = .next (encodeOp .uid (fun s => (s, buildUid s.params s.efe)) s) := rfl
theorem exec_encodeUrl (s : State) :
    exec .encodeUrl s = .next (encodeOp .url (fun s => (s, buildUrl s.params s.efe)) s) := rfl
theorem exec_encodeTlm (s : State) :
    exec .encodeTlm s = .next (encodeOp .tlm (buildTlm s.efe.advcnt s.efe.seccnt) s) := rfl
theorem exec_cmdReserved (c : Byte) (s : State) :
    exec (.cmdReserved c) s =
      .next { s with efe := { s.efe with stErr := 3, stSrc := 3 }, trace := s.trace ++ [.logErr 3 3] } := rfl
theorem exec_wr (a d : Byte) (s : State) (h : a ≠ 0x00) :
    exec (.wr a d) s = .next { s with efe := regWrite s.efe (regAt a) d } := by
  show execWr a d s = _
  simp only [execWr, if_neg h]
theorem exec_rd (a : Byte) (s : State) :
    exec (.rd a) s = .next { s with trace := s.trace ++ [.readData (readByte s a)] } := rfl
theorem exec_tickActive (s : State) : exec .tickActive s = .next (dispatch (countTick s)) := rfl
theorem exec_tickInactive (s : State) : exec .tickInactive s = .next s := rfl
theorem exec_reset (s : State) : exec .reset s = .next { s with efe := Efe.reset s.params } := rfl

end Sys2Proof.Laws
end

