-- ==== Sys2Proof/Laws/Events.lean ====
section
/-! SUPPORT. What each build and each event can do, once, as a case split on where it ends: later proofs about every event
cite these and never unfold a meaning. -/

namespace Sys2Proof.Laws

open Sys2Proof Sys2Proof.Machine

/-- The state once both sensors were sampled (R222). -/
def afterSampling (s : State) : State :=
  { s with battPort := s.battPort.tail, tempPort := s.tempPort.tail, draws := s.draws + 2,
           trace := s.trace ++ [.battSample (nextBatt s), .tempSample (nextTemp s (s.draws + 1))] }

@[simp] theorem afterSampling_params (s : State) : (afterSampling s).params = s.params := rfl
@[simp] theorem afterSampling_efe (s : State) : (afterSampling s).efe = s.efe := rfl
@[simp] theorem afterSampling_inputs (s : State) : (afterSampling s).inputs = s.inputs := rfl
@[simp] theorem afterSampling_battPort (s : State) : (afterSampling s).battPort = s.battPort.tail := rfl
@[simp] theorem afterSampling_tempPort (s : State) : (afterSampling s).tempPort = s.tempPort.tail := rfl
@[simp] theorem afterSampling_draws (s : State) : (afterSampling s).draws = s.draws + 2 := rfl
@[simp] theorem afterSampling_trace (s : State) :
    (afterSampling s).trace = s.trace ++ [.battSample (nextBatt s), .tempSample (nextTemp s (s.draws + 1))] := rfl

/-- The two ends of a UID build (R190, R192). -/
theorem uid_build_cases (s : State) :
    (31 ≤ s.params.slotCap ∧ encodeOp .uid (fun s => (s, buildUid s.params s.efe)) s =
      commit .uid (written s.params (frameBytes s.params 0x00 (uidPieces s.efe).flatten)) s) ∨
    (s.params.slotCap < 31 ∧ encodeOp .uid (fun s => (s, buildUid s.params s.efe)) s = fail .uid .bufferTooSmall s) := by
  by_cases h : 31 ≤ s.params.slotCap
  · exact .inl ⟨h, encodeOp_ok _ _ s s _ (by rw [buildUid_eq, uidPieces_length, if_pos (by omega)])⟩
  · exact .inr ⟨by omega, encodeOp_error _ _ s s _ (by rw [buildUid_eq, uidPieces_length, if_neg (by omega)])⟩

/-- The ends of a URL build (R196, R201, R203). -/
theorem url_build_cases (s : State) :
    (∃ c rem, urlPayload s.params s.efe = .ok (c, rem) ∧ 1 ≤ rem.length ∧ rem.length ≤ s.params.urlMaxRemainder ∧
      14 + rem.length ≤ s.params.slotCap ∧ encodeOp .url (fun s => (s, buildUrl s.params s.efe)) s =
        commit .url (written s.params (frameBytes s.params 0x10 (urlPieces s.efe c rem).flatten)) s) ∨
    (∃ c rem, urlPayload s.params s.efe = .ok (c, rem) ∧ rem.length ≤ s.params.urlMaxRemainder ∧
      s.params.slotCap < 14 + rem.length ∧
      encodeOp .url (fun s => (s, buildUrl s.params s.efe)) s = fail .url .bufferTooSmall s) ∨
    (∃ e, urlPayload s.params s.efe = .error e ∧ e ≠ .bufferTooSmall ∧
      encodeOp .url (fun s => (s, buildUrl s.params s.efe)) s = fail .url e s) := by
  rcases hp : urlPayload s.params s.efe with e | ⟨c, rem⟩
  · refine .inr (.inr ⟨e, rfl, ?_, encodeOp_error _ _ s s _ (by rw [buildUrl_error _ _ _ hp])⟩)
    rintro rfl
    unfold urlPayload urlCompress at hp
    repeat' split at hp
    all_goals simp_all
    all_goals grind
  · obtain ⟨h1, h2⟩ := urlPayload_ok _ _ _ _ hp
    by_cases h : 14 + rem.length ≤ s.params.slotCap
    · exact .inl ⟨c, rem, rfl, h1, h2, h,
        encodeOp_ok _ _ s s _ (by rw [buildUrl_ok _ _ _ _ hp, urlPieces_length, if_pos (by omega)])⟩
    · exact .inr (.inl ⟨c, rem, rfl, h2, by omega,
        encodeOp_error _ _ s s _ (by rw [buildUrl_ok _ _ _ _ hp, urlPieces_length, if_neg (by omega)])⟩)

/-- The two ends of a TLM build, the samples taken either way (R215, R222, R224). -/
theorem tlm_build_cases (adv sec : Word) (s : State) :
    (27 ≤ s.params.slotCap ∧ encodeOp .tlm (buildTlm adv sec) s =
      commit .tlm (written s.params (frameBytes s.params 0x20
        (tlmPieces (nextBatt s) (nextTemp s (s.draws + 1)) adv sec).flatten)) (afterSampling s)) ∨
    (s.params.slotCap < 27 ∧ encodeOp .tlm (buildTlm adv sec) s = fail .tlm .bufferTooSmall (afterSampling s)) := by
  by_cases h : 27 ≤ s.params.slotCap
  · exact .inl ⟨h, encodeOp_ok _ _ s _ _ (by rw [buildTlm_eq, tlmFrame_eq, tlmPieces_length, if_pos (by omega)]; rfl)⟩
  · exact .inr ⟨by omega,
      encodeOp_error _ _ s _ _ (by rw [buildTlm_eq, tlmFrame_eq, tlmPieces_length, if_neg (by omega)]; rfl)⟩

/-- The two ends of a push (R236). -/
theorem push_cases (k : Kind) (s : State) :
    ((s.efe.slot k).len ≠ 0 ∧ push k s =
      { s with efe := { s.efe with live := liveByte k, advcnt := s.efe.advcnt + 1 },
               trace := s.trace ++ [.advSet ((s.efe.slot k).buf.take (s.efe.slot k).len.toNat) (s.efe.slot k).len] }) ∨
    ((s.efe.slot k).len = 0 ∧ push k s = s) := by
  by_cases h : (s.efe.slot k).len = 0
  · exact .inr ⟨h, push_empty k s h⟩
  · exact .inl ⟨h, push_valid k s h⟩

/-- Every event completes (R266): its next state, by event. -/
def after (i : Instr) (s : State) : State :=
  match i with
  | .nop => s
  | .encodeUid => encodeOp .uid (fun s => (s, buildUid s.params s.efe)) s
  | .encodeUrl => encodeOp .url (fun s => (s, buildUrl s.params s.efe)) s
  | .encodeTlm => encodeOp .tlm (buildTlm s.efe.advcnt s.efe.seccnt) s
  | .cmdReserved _ => { s with efe := { s.efe with stErr := 3, stSrc := 3 }, trace := s.trace ++ [.logErr 3 3] }
  | .wr a d => { s with efe := regWrite s.efe (regAt a) d }
  | .rd a => { s with trace := s.trace ++ [.readData (readByte s a)] }
  | .tickActive => dispatch (countTick s)
  | .tickInactive => s
  | .reset => { s with efe := Efe.reset s.params }

/-- The meaning of every well-formed event. -/
theorem exec_after (i : Instr) (s : State) (h : i.wf = true) : exec i s = .next (after i s) := by
  cases i with
  | wr a d => exact exec_wr a d s (by simpa [Instr.wf] using h)
  | _ => rfl

/-- A term that stands for no event word acts as one that does: a WR of CMD is its command (R142; log 10), a CMD_RESERVED
with a command's code is CMD_RESERVED. -/
theorem exec_as_wellFormed (i : Instr) (s : State) : ∃ j : Instr, j.wf = true ∧ exec i s = .next (after j s) ∧
    (j = i ∨ (∃ d, i = .wr 0x00 d ∧ j = decodeCommand d) ∨ ∃ c, i = .cmdReserved c ∧ j = .cmdReserved 0xFF) := by
  by_cases h : i.wf = true
  · exact ⟨i, h, exec_after i s h, .inl rfl⟩
  cases i with
  | wr a d =>
    have ha : a = 0x00 := by simpa [Instr.wf] using h
    subst ha
    have hw : (decodeCommand d).wf = true := by
      revert d; decide
    refine ⟨decodeCommand d, hw, ?_, .inr (.inl ⟨d, rfl, rfl⟩)⟩
    rw [← exec_after _ _ hw]
    exact hostCommand_eq d s
  | cmdReserved c => exact ⟨.cmdReserved 0xFF, rfl, rfl, .inr (.inr ⟨c, rfl, rfl⟩)⟩
  | _ => exact absurd rfl h

end Sys2Proof.Laws
end

