-- ==== Sys2Proof/Laws/PerInstr.lean ====
section
/-! SUPPORT. One lemma for each constructor of Instr: the two top bits of its word are the format R90 gives its event. -/

namespace Sys2Proof.Laws

open Sys2Proof

/-- The format of R90 an event's word has. -/
def formatBits : Instr → BitVec 2
  | .nop => 0b01
  | .encodeUid => 0b01
  | .encodeUrl => 0b01
  | .encodeTlm => 0b01
  | .cmdReserved _ => 0b01
  | .wr _ _ => 0b01
  | .rd _ => 0b00
  | .tickActive => 0b10
  | .tickInactive => 0b10
  | .reset => 0b11

/-- R90: the word of the event has the event's format. -/
def Format.Statement (i : Instr) : Prop := formatOf (encode i) = formatBits i

theorem formatOf_append (f : BitVec 2) (a d : Byte) : formatOf (f ++ a ++ d) = f := by
  apply BitVec.eq_of_getLsbD_eq
  intro i hi
  simp only [formatOf, BitVec.getLsbD_extractLsb', BitVec.getLsbD_append, hi]
  have h1 : ¬ 16 + i < 8 := by omega
  have h2 : ¬ 16 + i - 8 < 8 := by omega
  have h3 : 16 + i - 8 - 8 = i := by omega
  simp [h1, h2, h3]

theorem Format.nop : Format.Statement .nop := by unfold Format.Statement; decide
theorem Format.encodeUid : Format.Statement .encodeUid := by unfold Format.Statement; decide
theorem Format.encodeUrl : Format.Statement .encodeUrl := by unfold Format.Statement; decide
theorem Format.encodeTlm : Format.Statement .encodeTlm := by unfold Format.Statement; decide
theorem Format.cmdReserved (c : Byte) : Format.Statement (.cmdReserved c) := formatOf_append _ _ _
theorem Format.wr (a d : Byte) : Format.Statement (.wr a d) := formatOf_append _ _ _
theorem Format.rd (a : Byte) : Format.Statement (.rd a) := formatOf_append _ _ _
theorem Format.tickActive : Format.Statement .tickActive := by unfold Format.Statement; decide
theorem Format.tickInactive : Format.Statement .tickInactive := by unfold Format.Statement; decide
theorem Format.reset : Format.Statement .reset := by unfold Format.Statement; decide

end Sys2Proof.Laws
end

