-- ==== Sys2Proof/Tests/Slice0.lean ====
section
/-! SUPPORT. The model's own tests. Event words are written out from the patterns of R90 and the table of R92; the expected
results of the single steps are the vectors of spec/95_test_vectors.md, named by their ids. A `witness_<Name>` shows states
and operands that meet the hypotheses of the statement of that name, clause by clause, at the ends of their ranges. -/

namespace Sys2Proof.Tests

open Sys2Proof Sys2Proof.Machine Sys2Proof.Claims Sys2Proof.Safety

/-! ## Helpers -/

/-- What `f` sees in the next state. -/
def seen {α : Type} (f : State → α) : Host.Outcome State Fault Refusal → Option α
  | .next s => some (f s)
  | .fault _ => none
  | .refused _ => none

/-- A URL register that holds `u`. -/
def urlRegister (u : List Byte) : Vector Byte 32 := Vector.ofFn fun i => u.getD i.val 0x00

/-- The inputs of spec/95_test_vectors.md: RSSI, NS, DEVID and the two samples. -/
def configured : State :=
  { State.reset with
    efe := { State.reset.efe with
      rssi := 0xEC
      ns := #v[0x01, 0x02, 0x03, 0x04, 0x05, 0x06, 0x07, 0x08, 0x09, 0x0A]
      devid := #v[0x11, 0x22, 0x33, 0x44, 0x55, 0x66] }
    battPort := [3000]
    tempPort := [0x1780] }

/-- `configured` with a URL and the no-match policy. -/
def withUrl (u : List Byte) (policy : BitVec 1) : State :=
  { configured with
    efe := { configured.efe with urlLen := BitVec.ofNat 8 u.length, url := urlRegister u, cfgNomatch := policy } }

/-- `configured` with its counters. -/
def counting (iter adv : Word) : State :=
  { configured with efe := { configured.efe with iter := iter, seccnt := iter, advcnt := adv } }

/-- `s` with another SLOT_CAP and the slots empty. -/
def capacity (n : Nat) (s : State) : State :=
  let p : Params := { s.params with slotCap := n }
  { s with params := p,
           efe := { s.efe with slotUid := Slot.empty p, slotUrl := Slot.empty p, slotTlm := Slot.empty p } }

/-- "example.com" -/
def exampleCom : List Byte := [0x65, 0x78, 0x61, 0x6D, 0x70, 0x6C, 0x65, 0x2E, 0x63, 0x6F, 0x6D]
/-- "ftp://example.com" -/
def ftpUrl : List Byte := [0x66, 0x74, 0x70, 0x3A, 0x2F, 0x2F] ++ exampleCom
/-- "abcdefghijklmnopqr" -/
def eighteen : List Byte := (List.range 18).map fun i => BitVec.ofNat 8 (0x61 + i)

/-- `H(x)` of spec/95_test_vectors.md. -/
def H (x : Byte) : List Byte := [0x02, 0x01, 0x06, 0x03, 0x03, 0xAA, 0xFE, x, 0x16, 0xAA, 0xFE]

/-- The valid bytes of a slot. -/
def frameIn (k : Kind) (s : State) : List Byte := (s.efe.slot k).buf.take (s.efe.slot k).len.toNat

/-! ## WellFormed: what the checks refuse -/

theorem test_wf_refuses_command_codes :
    (Instr.cmdReserved 0x00).wf = false ∧ (Instr.cmdReserved 0x01).wf = false ∧ (Instr.cmdReserved 0x02).wf = false ∧
    (Instr.cmdReserved 0x03).wf = false ∧ (Instr.cmdReserved 0x04).wf = true ∧ (Instr.cmdReserved 0xFF).wf = true := by
  decide

theorem test_wf_refuses_wr_of_cmd :
    (Instr.wr 0x00 0x01).wf = false ∧ (Instr.wr 0x01 0x00).wf = true ∧ (Instr.wr 0xFF 0xFF).wf = true := by decide

theorem test_wf_refuses_long_url :
    (Pseudo.cfgUrl (List.replicate 33 0x61)).wf = false ∧ (Pseudo.cfgUrl (List.replicate 32 0x61)).wf = true := by decide

theorem test_wf_refuses_long_window : (Pseudo.rdslot .uid 33).wf = false ∧ (Pseudo.rdslot .tlm 32).wf = true := by decide

theorem test_decoder_refuses_wide_numbers :
    decodeTableWord 24 0x40000 = none ∧ decodeNat 0x40000 = .error (.widerThanEventWord 0x40000) ∧
    decodeTableWord 18 0x3FFFF = some .reset := ⟨rfl, rfl, by decide⟩

/-! ## Decoding: words written out bit by bit from R90, R92 and 95_test_vectors.md -/

theorem test_decode_nop : decode 0b01_00000000_00000000 = .nop := by decide
theorem test_decode_encodeUid : decode 0b01_00000000_00000001 = .encodeUid := by decide
theorem test_decode_encodeUrl : decode 0b01_00000000_00000010 = .encodeUrl := by decide
theorem test_decode_encodeTlm : decode 0b01_00000000_00000011 = .encodeTlm := by decide
theorem test_decode_cmdReserved :
    decode 0b01_00000000_00000100 = .cmdReserved 0x04 ∧ decode 0b01_00000000_11111111 = .cmdReserved 0xFF := by decide
/-- `wr RSSI, 0xEC` and `wr URL31, 0x7A` (P1, H12). -/
theorem test_decode_wr :
    decode 0b01_00000011_11101100 = .wr 0x03 0xEC ∧ decode 0b01_00111111_01111010 = .wr 0x3F 0x7A := by decide
/-- `rd STATUS`, and the same with its ignored bits set (H19). -/
theorem test_decode_rd :
    decode 0b00_00000001_00000000 = .rd 0x01 ∧ decode 0b00_00000001_11111111 = .rd 0x01 := by decide
theorem test_decode_tickActive :
    decode 0b10_00000000_00000001 = .tickActive ∧ decode 0b10_11111111_11111111 = .tickActive := by decide
/-- H20. -/
theorem test_decode_tickInactive :
    decode 0b10_00000000_00000000 = .tickInactive ∧ decode 0b10_11111111_11111110 = .tickInactive := by decide
/-- H21. -/
theorem test_decode_reset : decode 0b11_00000000_00000000 = .reset ∧ decode 0x3ABCD = .reset := by decide

/-- Words of R104. -/
theorem test_encode_words :
    encode (.wr 0x03 0xEC) = 0x103EC ∧ encode .encodeUid = 0x10001 ∧ encode .tickActive = 0x20001 ∧
    encode .tickInactive = 0x20000 ∧ encode .reset = 0x30000 ∧ encode (.rd 0x01) = 0x00100 ∧
    encode (.cmdReserved 0x7F) = 0x1007F := by decide

/-- The event words of `cfg.devid` in program P1. -/
theorem test_expand_cfgDevid :
    (Pseudo.cfgDevid #v[0x11, 0x22, 0x33, 0x44, 0x55, 0x66]).expand.map encode =
      [0x10E11, 0x10F22, 0x11033, 0x11144, 0x11255, 0x11366] := by decide

/-- The event words of `cfg.url "http://www."` in program P2 and of `rd32 ADVCNT` in program P3. -/
theorem test_expand_cfgUrl_and_rd32 :
    (Pseudo.cfgUrl litHttpWww).expand.map encode =
      [0x1140B, 0x12068, 0x12174, 0x12274, 0x12370, 0x1243A, 0x1252F, 0x1262F, 0x12777, 0x12877, 0x12977, 0x12A2E] ∧
    (Pseudo.rd32 .advcnt).expand.map encode = [0x04400, 0x04500, 0x04600, 0x04700] := by decide

/-! ## Single steps -/

/-- X4: NOP does not clear the error of a reserved command. -/
theorem test_nop_keeps_status :
    seen (readByte · 0x01) (exec .nop { State.reset with efe := { State.reset.efe with stErr := 3, stSrc := 3 } }) = some 0x0F := by
  decide

/-- D1. -/
theorem test_encodeUid_frame :
    seen (fun t => (frameIn .uid t, readByte t 0x01)) (exec .encodeUid configured) =
      some (H 0x17 ++ [0x00, 0xEC, 0x01, 0x02, 0x03, 0x04, 0x05, 0x06, 0x07, 0x08, 0x09, 0x0A,
        0x66, 0x55, 0x44, 0x33, 0x22, 0x11, 0x00, 0x00], 0x10) := by decide

/-- D6. -/
theorem test_encodeUid_too_small :
    seen (fun t => (readByte t 0x01, readByte t 0x4C, t.trace)) (exec .encodeUid (capacity 30 configured)) =
      some (0x01, 0x00, [.logErr 1 0]) := by decide

/-- U1. -/
theorem test_encodeUrl_frame :
    seen (fun t => (frameIn .url t, readByte t 0x01)) (exec .encodeUrl (withUrl (litHttpWww ++ exampleCom) 0)) =
      some (H 0x11 ++ [0x10, 0xEC, 0x00] ++ exampleCom, 0x24) := by decide

/-- U7 and U13: "http://www" leaves "www"; a remainder of 18 bytes is InvalidUrl. -/
theorem test_encodeUrl_corners :
    seen (frameIn .url) (exec .encodeUrl (withUrl (litHttp ++ [0x77, 0x77, 0x77]) 0)) =
      some (H 0x09 ++ [0x10, 0xEC, 0x02, 0x77, 0x77, 0x77]) ∧
    seen (readByte · 0x01) (exec .encodeUrl (withUrl (litHttpWww ++ eighteen) 0)) = some 0x06 := by decide

/-- T1. -/
theorem test_encodeTlm_frame :
    seen (fun t => (frameIn .tlm t, t.efe.advcnt)) (exec .encodeTlm (counting 9 3)) =
      some (H 0x13 ++ [0x20, 0x00, 0x0B, 0xB8, 0x17, 0x80, 0x00, 0x00, 0x00, 0x03, 0x00, 0x00, 0x00, 0x09, 0x00, 0x00], 3) := by
  decide

/-- T5, T7: the samples are taken although the build fails. -/
theorem test_encodeTlm_too_small :
    seen (fun t => (readByte t 0x01, t.trace)) (exec .encodeTlm (capacity 26 configured)) =
      some (0x09, [.battSample 3000, .tempSample 0x1780, .logErr 1 2]) := by decide

/-- X2. -/
theorem test_cmdReserved_records :
    seen (fun t => (readByte t 0x01, t.trace)) (exec (.cmdReserved 0x04) State.reset) = some (0x0F, [.logErr 3 3]) := by
  decide

/-- H5 and H6: CONFIG keeps bit 0. -/
theorem test_wr_config :
    seen (readByte · 0x02) (exec (.wr 0x02 0xFF) State.reset) = some 0x01 ∧
    seen (readByte · 0x02) (exec (.wr 0x02 0xFE) State.reset) = some 0x00 := by decide

/-- H12 and H7: the last URL byte is stored; a write to STATUS is dropped. -/
theorem test_wr_stores_or_drops :
    seen (readByte · 0x3F) (exec (.wr 0x3F 0x7A) State.reset) = some 0x7A ∧
    seen (fun t => decide (t = State.reset)) (exec (.wr 0x01 0xFF) State.reset) = some true := by decide

/-- H1 and H2. -/
theorem test_rd_after_reset :
    seen (·.trace) (exec (.rd 0x01) State.reset) = some [.readData 0x0C] ∧
    seen (·.trace) (exec (.rd 0x4F) State.reset) = some [.readData 0xFF] := by decide

/-- H14: the first byte of a counter is its most significant. -/
theorem test_rd_counter :
    seen (·.trace) (exec (.rd 0x40) (counting 0x01020304 0)) = some [.readData 0x01] ∧
    seen (·.trace) (exec (.rd 0x43) (counting 0x01020304 0)) = some [.readData 0x04] := by decide

/-- W1, tick 9. -/
theorem test_tickActive_tlm :
    seen (fun t => (t.efe.advcnt, t.efe.live, t.trace.getLast?)) (exec .tickActive (counting 8 3)) =
      some (4, 0x02, some (.advSet (H 0x13 ++ [0x20, 0x00, 0x0B, 0xB8, 0x17, 0x80, 0x00, 0x00, 0x00, 0x03,
        0x00, 0x00, 0x00, 0x09, 0x00, 0x00]) 27)) := by decide

/-- W6: the wrap takes the TLM entry with adv 0xFFFFFFFF and sec 0. -/
theorem test_tickActive_wrap :
    seen (fun t => (t.efe.iter, t.efe.advcnt, frameIn .tlm t)) (exec .tickActive (counting 0xFFFFFFFF 0xFFFFFFFF)) =
      some (0, 0, H 0x13 ++ [0x20, 0x00, 0x0B, 0xB8, 0x17, 0x80, 0xFF, 0xFF, 0xFF, 0xFF,
        0x00, 0x00, 0x00, 0x00, 0x00, 0x00]) := by decide

/-- W4. -/
theorem test_tickInactive_at_nine :
    seen (fun t => (t.efe.iter, t.efe.seccnt, t.efe.advcnt, t.trace)) (exec .tickInactive (counting 9 4)) =
      some (9, 9, 4, []) := by decide

/-- X1. -/
theorem test_reset_clears :
    seen (fun t => decide (t.efe = State.reset.efe ∧ t.trace = [])) (exec .reset (withUrl ftpUrl 1)) = some true := by decide

/-- P1: the word 0x103EC, presented, is the next step. -/
theorem test_step_takes_presented_word :
    seen (fun t => (t.efe.rssi, t.inputs)) (step (State.reset.withFetchWord 24 0x103EC)) = some (0xEC, []) := by decide

/-! ## Witnesses -/

theorem witness_DecodingFollowsOpcodeTable :
    ((0x10004 : EventWord) &&& 0x3FF00 = 0x10000 ∧ 3 < (0x10004 : EventWord).toNat % 256) ∧
    ((0x1FFFF : EventWord) &&& 0x30000 = 0x10000 ∧ (0x1FFFF : EventWord).toNat / 256 % 256 ≠ 0) ∧
    ((0x10100 : EventWord) &&& 0x30000 = 0x10000 ∧ (0x10100 : EventWord).toNat / 256 % 256 ≠ 0) ∧
    (0x0FFFF : EventWord) &&& 0x30000 = 0x00000 ∧ (0x2FFFF : EventWord) &&& 0x30001 = 0x20001 ∧
    (0x2FFFE : EventWord) &&& 0x30001 = 0x20000 ∧ (0x3FFFF : EventWord) &&& 0x30000 = 0x30000 := by decide

theorem witness_DecodeEncodeRoundTrip :
    (Instr.cmdReserved 0x04).wf = true ∧ (Instr.wr 0x01 0xFF).wf = true ∧ (Instr.rd 0xFF).wf = true := by decide

theorem witness_IgnoredBitsDoNotMatter : encode (decode 0x001FF) = encode (decode 0x00100) := by decide

theorem witness_EveryWordDecodesToAnEvent : 0x3FFFF < 2 ^ 18 ∧ 0 < 2 ^ 18 := by decide

theorem witness_StepPerformsDecodedEvent :
    (State.reset.withFetchWord 24 0x20001).inputs = [.single 0x20001] ∧ Instr.tickActive.wf = true := by decide

theorem witness_StepWithoutEventIsIdle : State.reset.inputs = [] := rfl

theorem witness_SimultaneousEventsInEitherOrder :
    ({ State.reset with inputs := [.together 0x10001 0x20001] } : State).inputs = .together 0x10001 0x20001 :: [] := rfl

/-- Every event has a next state to speak of; those with operands at some. -/
theorem witness_EventsOnlyExtendTheTrace :
    (∃ t, exec .nop configured = .next t) ∧ (∃ t, exec .encodeUid configured = .next t) ∧
    (∃ t, exec .encodeUrl configured = .next t) ∧ (∃ t, exec .encodeTlm configured = .next t) ∧
    (∃ t, exec (.cmdReserved 0x04) configured = .next t) ∧ (∃ t, exec (.wr 0x03 0x01) configured = .next t) ∧
    (∃ t, exec (.rd 0x03) configured = .next t) ∧ (∃ t, exec .tickActive configured = .next t) ∧
    (∃ t, exec .tickInactive configured = .next t) ∧ ∃ t, exec .reset configured = .next t :=
  ⟨⟨_, rfl⟩, ⟨_, rfl⟩, ⟨_, rfl⟩, ⟨_, rfl⟩, ⟨_, rfl⟩, ⟨_, rfl⟩, ⟨_, rfl⟩, ⟨_, rfl⟩, ⟨_, rfl⟩, ⟨_, rfl⟩⟩

/-- The map of R140 at the ends of its ranges, on a state whose bytes tell them apart. -/
theorem witness_ReadReturnsRegisterByte :
    [0x00, 0x01, 0x02, 0x03, 0x04, 0x0D, 0x0E, 0x13, 0x14, 0x15, 0x1F].map
        (readR140 Params.default (withUrl ftpUrl 1).efe) =
      [0x00, 0x0C, 0x01, 0xEC, 0x01, 0x0A, 0x11, 0x66, 0x11, 0x00, 0x00] ∧
    [0x20, 0x30, 0x31, 0x3F].map (readR140 Params.default (withUrl ftpUrl 1).efe) = [0x66, 0x6D, 0x00, 0x00] ∧
    [0x40, 0x43, 0x44, 0x47, 0x48, 0x4B, 0x4C, 0x4E, 0x4F, 0x50, 0x6E, 0x6F, 0xAF, 0xB0, 0xFF].map
        (readR140 Params.default (counting 0x01020304 0x05060708).efe) =
      [0x01, 0x04, 0x05, 0x08, 0x01, 0x04, 0x00, 0x00, 0xFF, 0x00, 0x00, 0x00, 0x00, 0x00, 0x00] := by decide

/-- The map of R141 at the ends of its ranges. -/
theorem witness_WriteStoresRegister :
    (writeR141 configured.efe 0x02 0xFF).cfgNomatch = 1 ∧ (writeR141 configured.efe 0x03 0xFF).rssi = 0xFF ∧
    (writeR141 configured.efe 0x04 0xFF).ns[0] = 0xFF ∧ (writeR141 configured.efe 0x0D 0xFF).ns[9] = 0xFF ∧
    (writeR141 configured.efe 0x0E 0xFF).devid[0] = 0xFF ∧ (writeR141 configured.efe 0x13 0xFF).devid[5] = 0xFF ∧
    (writeR141 configured.efe 0x14 0xFF).urlLen = 0xFF ∧ (writeR141 configured.efe 0x20 0xFF).url[0] = 0xFF ∧
    (writeR141 configured.efe 0x3F 0xFF).url[31] = 0xFF ∧
    ∀ a ∈ [0x01, 0x15, 0x1F, 0x40, 0x4F, 0x50, 0xFF], writeR141 configured.efe a 0xFF = configured.efe := by decide

theorem witness_WriteThenReadBack :
    writable (0x02 : Byte).toNat ∧ writable (0x14 : Byte).toNat ∧ writable (0x20 : Byte).toNat ∧
    writable (0x3F : Byte).toNat ∧ ¬ writable (0x01 : Byte).toNat ∧ ¬ writable (0x15 : Byte).toNat ∧
    ¬ writable (0x1F : Byte).toNat ∧ ¬ writable (0x40 : Byte).toNat ∧ (0x03 : Byte) ≠ 0x02 := by
  simp [writable]

theorem witness_ReservedAddressesInert :
    ∀ a ∈ ([0x15, 0x1F, 0xB0, 0xFF] : List Byte), (0x15 ≤ a.toNat ∧ a.toNat ≤ 0x1F) ∨ 0xB0 ≤ a.toNat := by decide

theorem witness_CommandRegisterDispatches : 3 < (0x04 : Byte).toNat ∧ 3 < (0xFF : Byte).toNat := by decide

theorem witness_ReservedCommandRecordsInvalidInput : 3 < (0x04 : Byte).toNat ∧ 3 < (0xFF : Byte).toNat := by decide

theorem witness_RegisterNamesResolve :
    regAddr (.url 31) = some 0x3F ∧ regAddr .cmd = some 0x00 ∧ regAt 0x3F ≠ .reserved ∧ regAt 0x4F ≠ .reserved := by decide

/-- A failing ENCODE_URL, an active tick of the TLM entry, and a reserved command write STATUS. -/
theorem witness_StatusFieldsAndWriters :
    seen (fun t => decide (t.efe.stErr ≠ configured.efe.stErr)) (exec .encodeUrl configured) = some true ∧
    seen (fun t => decide (t.efe.stSrc ≠ (counting 8 3).efe.stSrc)) (exec .tickActive (counting 8 3)) = some true ∧
    seen (fun t => decide (t.efe.stErr ≠ configured.efe.stErr)) (exec (.cmdReserved 0x04) configured) = some true := by decide

theorem witness_ConfigurationShorthandStores : ftpUrl.length ≤ 32 ∧ (List.replicate 32 (0x61 : Byte)).length ≤ 32 := by decide

theorem witness_CounterReadsCanTear : (counting 0xFF 0).efe.iter = 0xFF := rfl

/-- B8 and B7: a value at the last byte does not fit, two bytes before the end it does. -/
theorem witness_AppendFitsWholeOrFails :
    let b : Scratch := { scr := List.replicate 31 0x00, cur := 30 }
    let c : Scratch := { scr := List.replicate 31 0x00, cur := 29 }
    b.scr.length = Params.default.slotCap ∧ Params.default.slotCap < b.cur + (field16 0x0BB8).length ∧
    c.scr.length = Params.default.slotCap ∧ c.cur + (field16 0x0BB8).length ≤ Params.default.slotCap := by decide

theorem witness_AppendBytesIsRepeatedAppendU8 :
    let b : Scratch := { scr := List.replicate 31 0x00, cur := 31 }
    b.scr.length = Params.default.slotCap ∧ b.cur ≤ Params.default.slotCap := by decide

/-- B3 and B2. -/
theorem witness_HeaderPackerWritesTwelveBytes :
    ({ Params.default with slotCap := 11 } : Params).slotCap < 12 ∧
    12 ≤ ({ Params.default with slotCap := 12 } : Params).slotCap := by decide

/-- A body that ends well and one that raises, at the two ends of the kinds. -/
theorem witness_BuildEndsInCommitOrFail :
    (fun s : State => (s, Except.ok (ε := ErrKind) (scrBegin s.params))) configured =
      (configured, .ok (scrBegin configured.params)) ∧
    (fun s : State => (s, Except.error (α := Scratch) ErrKind.bufferTooSmall)) configured =
      (configured, .error .bufferTooSmall) ∧ Kind.uid ≠ Kind.tlm := ⟨rfl, rfl, by decide⟩

/-- What every statement about an accepted URL assumes. -/
def accepted (s : State) (c : Byte) (rem : List Byte) : Prop :=
  1 ≤ s.efe.urlLen.toNat ∧ s.efe.urlLen.toNat ≤ 32 ∧ compressesTo s.efe (urlBytes s.efe) c rem

/-- U4, the shortest frame, U6, the longest, and U15, under the pass-through policy. -/
theorem witness_EncodeUrlBuildsFrame :
    accepted (withUrl (litHttp ++ [0x78]) 0) 0x02 [0x78] ∧
    accepted (withUrl (litHttpWww ++ eighteen.take 17) 0) 0x00 (eighteen.take 17) ∧
    accepted (withUrl ftpUrl 1) 0x02 ftpUrl ∧
    ∀ rem ∈ ([[0x78], eighteen.take 17, ftpUrl] : List (List Byte)),
      1 ≤ rem.length ∧ rem.length ≤ Params.default.urlMaxRemainder ∧ 14 + rem.length ≤ Params.default.slotCap := by
  refine ⟨?_, ?_, ?_, ?_⟩ <;> first | decide | (unfold accepted compressesTo tableMatch noTableMatch; decide)

/-- U18 at its lower bound, and U12. -/
theorem witness_UrlLengthOutOfRangeFails :
    32 < (withUrl (List.replicate 33 0x61) 0).efe.urlLen.toNat ∧ (withUrl [] 0).efe.urlLen = 0 := by decide

/-- U14 and U17. -/
theorem witness_UnmatchedUrlFailsClosed :
    1 ≤ (withUrl ftpUrl 0).efe.urlLen.toNat ∧ (withUrl ftpUrl 0).efe.urlLen.toNat ≤ 32 ∧
    (withUrl ftpUrl 0).efe.cfgNomatch = 0 ∧ noTableMatch (urlBytes (withUrl ftpUrl 0).efe) := by
  simp only [noTableMatch]; decide

/-- U8 to U11. -/
theorem witness_SchemeAloneIsInvalid :
    ∀ u ∈ [litHttpWww, litHttpsWww, litHttp, litHttps],
      1 ≤ (withUrl u 0).efe.urlLen.toNat ∧ (withUrl u 0).efe.urlLen.toNat ≤ 32 ∧ urlBytes (withUrl u 0).efe = u := by decide

/-- U13, and U16's policy with a URL of 18 bytes. -/
theorem witness_LongRemainderIsInvalid :
    accepted (withUrl (litHttpWww ++ eighteen) 0) 0x00 eighteen ∧ accepted (withUrl eighteen 1) 0x02 eighteen ∧
    Params.default.urlMaxRemainder < eighteen.length := by
  refine ⟨?_, ?_, ?_⟩ <;> first | decide | (unfold accepted compressesTo tableMatch noTableMatch; decide)

/-- U23. -/
theorem witness_UrlFrameTooLargeFails :
    accepted (capacity 14 (withUrl (litHttp ++ [0x78]) 0)) 0x02 [0x78] ∧ 1 ≤ ([0x78] : List Byte).length ∧
    ([0x78] : List Byte).length ≤ (capacity 14 (withUrl (litHttp ++ [0x78]) 0)).params.urlMaxRemainder ∧
    (capacity 14 (withUrl (litHttp ++ [0x78]) 0)).params.slotCap < 14 + ([0x78] : List Byte).length := by
  refine ⟨?_, ?_, ?_, ?_⟩ <;> first | decide | (unfold accepted compressesTo tableMatch noTableMatch; decide)

/-- One URL for each row of the table, "http://www" (no dot) among them, and one that no row takes. -/
theorem witness_CompressorTakesFirstMatch :
    tableMatch (litHttpWww ++ exampleCom) 0x00 exampleCom ∧ tableMatch (litHttpsWww ++ exampleCom) 0x01 exampleCom ∧
    tableMatch (litHttp ++ [0x77, 0x77, 0x77]) 0x02 [0x77, 0x77, 0x77] ∧
    tableMatch (litHttps ++ [0x78]) 0x03 [0x78] ∧ noTableMatch ftpUrl := by
  simp only [tableMatch, noTableMatch]; decide

theorem witness_ExpansionInvertsCompression :
    schemeSearch schemeTable (litHttpsWww ++ exampleCom) = some (0x01, exampleCom) ∧ schemeSearch schemeTable ftpUrl = none := by
  decide

/-- T4 and T5. -/
theorem witness_EncodeTlmBuildsFrameOrFails :
    27 ≤ (capacity 27 configured).params.slotCap ∧ ¬ 27 ≤ (capacity 26 configured).params.slotCap := by decide

/-- Two events in a row, and two TLM builds whose samples differ (T6). -/
theorem witness_RepeatedEventsIdempotent :
    (0x03 : Byte) ≠ 0x00 ∧
    seen (fun t => seen (fun u => decide (u.efe = t.efe)) (exec .encodeUid t)) (exec .encodeUid configured) = some (some true) ∧
    seen (fun t => seen (fun u => decide (u.efe.slotTlm = t.efe.slotTlm)) (exec .encodeTlm t))
      (exec .encodeTlm { configured with battPort := [3000, 2999], tempPort := [0x1780, 0x1780] }) = some (some false) := by
  decide

/-- W1, tick 9, and W6. -/
theorem witness_TlmTickRebuildsAndPushes :
    ((counting 8 3).efe.iter + 1).toNat % 9 = 0 ∧ ((counting 0xFFFFFFFF 0).efe.iter + 1).toNat % 9 = 0 ∧
    27 ≤ (capacity 27 (counting 8 3)).params.slotCap := by decide

/-- W8. -/
theorem witness_TlmTickFailureKeepsRadio :
    ((capacity 26 (counting 35 0)).efe.iter + 1).toNat % 9 = 0 ∧ (capacity 26 (counting 35 0)).params.slotCap < 27 := by decide

/-- Tick 15 of W1: 5 and 3 divide, URL is taken. -/
theorem witness_UrlTickPushesSlot :
    ((counting 14 0).efe.iter + 1).toNat % 9 ≠ 0 ∧ ((counting 14 0).efe.iter + 1).toNat % 5 = 0 := by decide

theorem witness_UidTickPushesSlot :
    ((counting 2 0).efe.iter + 1).toNat % 9 ≠ 0 ∧ ((counting 2 0).efe.iter + 1).toNat % 5 ≠ 0 ∧
    ((counting 2 0).efe.iter + 1).toNat % 3 = 0 := by decide

/-- W7. -/
theorem witness_TickWithoutEntryOnlyCounts :
    ((counting 0 0).efe.iter + 1).toNat % 9 ≠ 0 ∧ ((counting 0 0).efe.iter + 1).toNat % 5 ≠ 0 ∧
    ((counting 0 0).efe.iter + 1).toNat % 3 ≠ 0 := by decide

theorem witness_ScheduleOverFortyFiveTicks : (2 ^ 32 - 45) + 45 ≤ 2 ^ 32 ∧ 1 ≤ 45 := by decide

/-- W6. -/
theorem witness_CountersWrapIntoTlmEntry :
    (counting 0xFFFFFFFF 0xFFFFFFFF).efe.iter = 0xFFFFFFFF ∧ (counting 0xFFFFFFFF 0xFFFFFFFF).efe.seccnt = 0xFFFFFFFF ∧
    (counting 0xFFFFFFFF 0xFFFFFFFF).efe.advcnt = 0xFFFFFFFF ∧ 27 ≤ (counting 0xFFFFFFFF 0xFFFFFFFF).params.slotCap := by decide

/-- An event that pushes, and one that builds without a push. -/
theorem witness_AtMostOnePushPerEvent :
    seen (fun t => (t.trace.countP isAdvSet, t.trace.countP isBattSample)) (exec .tickActive (counting 8 3)) = some (1, 1) ∧
    seen (fun t => (t.trace.countP isAdvSet, t.trace.countP isBattSample)) (exec .encodeTlm configured) = some (0, 1) := by decide

theorem witness_CountersCountTicksAndPushes :
    seen (fun t => (t.efe.iter, t.efe.seccnt, t.efe.advcnt)) (exec .tickActive (counting 8 3)) = some (9, 9, 4) ∧
    seen (fun t => (t.efe.iter, t.efe.advcnt)) (exec .encodeTlm (counting 8 3)) = some (8, 3) ∧
    seen (fun t => t.efe.iter) (exec .reset (counting 8 3)) = some 0 := by decide

theorem witness_LiveNamesLastPush :
    Instr.tickActive ≠ .reset ∧ seen (fun t => (t.trace.countP isAdvSet, t.efe.live)) (exec .tickActive (counting 8 3)) = some (1, 0x02) := by
  decide

theorem witness_SlotsChangeOnlyByTheirBuild :
    Instr.tickActive.wf = true ∧ ((counting 2 0).efe.iter + 1).toNat % 9 ≠ 0 ∧ (∃ t, exec .tickActive (counting 2 0) = .next t) :=
  ⟨rfl, by decide, _, rfl⟩

theorem witness_ConfigurationChangesOnlyByHost :
    (∀ a d, Instr.encodeUid ≠ .wr a d) ∧ Instr.encodeUid ≠ .reset ∧ (∃ t, exec .encodeUid configured = .next t) :=
  ⟨by simp, by decide, _, rfl⟩

theorem witness_TicksIgnoreConfiguration : withConfig State.reset.efe configured.efe = configured.efe := by decide

theorem witness_StatusIsNeverReadInside : Instr.rd 0x00 ≠ .rd 0x01 ∧ Instr.rd 0x02 ≠ .rd 0x01 := by decide

/-- U12: an error that is recorded and logged. -/
theorem witness_LoggedErrorIsRecorded :
    seen (fun t => (t.efe.stErr, t.efe.stSrc, t.trace)) (exec .encodeUrl configured) = some (2, 1, [.logErr 2 1]) := by decide

theorem witness_BufferTooSmallNeedsOtherParameters :
    31 ≤ Params.default.slotCap ∧ Params.default.urlMaxRemainder ≤ 17 ∧ (∃ t, exec .encodeUid configured = .next t) :=
  ⟨by decide, by decide, _, rfl⟩

theorem witness_ReadsRightAfterReset : ∃ t, exec .reset configured = .next t := ⟨_, rfl⟩

theorem witness_ResetMeetsInvariant : configured.params.legal ∧ (∃ t, exec .reset configured = .next t) :=
  ⟨by decide, _, rfl⟩

/-- A slot that holds the UID frame of D1. -/
def uidSlot : Slot := filled Params.default (uidLayout Params.default configured.efe)

/-- An empty slot meets what is said of a slot. -/
theorem emptySlot_inv (k : Kind) : SlotInv Params.default k (Slot.empty Params.default) where
  capacity := by decide
  len_le := by decide
  zero_tail := by decide
  header_low h := absurd rfl h
  length_byte h := absurd rfl h
  header_high h := absurd rfl h
  frame_type h := absurd rfl h
  legal_len := by cases k <;> decide

/-- So does the slot of D1. -/
theorem uidSlot_inv : SlotInv Params.default .uid uidSlot where
  capacity := by decide
  len_le := by decide
  zero_tail := by decide
  header_low _ := by decide
  length_byte _ := by decide
  header_high _ := by decide
  frame_type _ := by decide
  legal_len := by decide

/-- `configured` after D1 and two active ticks, the third presented: its UID push is next. -/
def beforeUidPush : State :=
  { counting 2 0 with
    efe := { (counting 2 0).efe with slotUid := uidSlot, stSrc := 0 }
    inputs := [.single 0x20001] }

theorem beforeUidPush_inv : Inv beforeUidPush where
  params := by decide
  uid := uidSlot_inv
  url := emptySlot_inv .url
  tlm := emptySlot_inv .tlm
  counters := rfl
  live := by decide

theorem witness_StepKeepsInvariant : Inv beforeUidPush ∧ (∃ t, step beforeUidPush = .next t) := ⟨beforeUidPush_inv, _, rfl⟩

/-- The step does hand a frame to the radio. -/
theorem witness_OnlyWholeFramesAreSent :
    Inv beforeUidPush ∧
    seen (fun t => t.trace.map isAdvSet) (step beforeUidPush) = some [true] := ⟨beforeUidPush_inv, by decide⟩

end Sys2Proof.Tests
end

/-! # The state (10_state.md): what each event keeps -/

namespace Sys2Proof.Proofs

open Sys2Proof Sys2Proof.Machine Sys2Proof.Claims Sys2Proof.Safety Sys2Proof.Laws

/-! ## The slot invariant: an empty slot and a slot that holds a finished frame -/

/-- An emptied slot meets R38 to R42, whatever its kind (R47, R169). -/
theorem slotInv_empty (p : Params) (k : Kind) : SlotInv p k (Slot.empty p) where
  capacity := by simp
  len_le := by simp
  zero_tail := by simp
  header_low h := absurd rfl h
  length_byte h := absurd rfl h
  header_high h := absurd rfl h
  frame_type h := absurd rfl h
  legal_len := by cases k <;> exact .inl rfl

/-- The service-data length byte of R167 is the frame's length less 8. -/
theorem ofNat_frame_length (n : Nat) : BitVec.ofNat 8 (4 + n) = BitVec.ofNat 8 (12 + n) - 8 := by
  bv_omega

/-- The slot that commit makes of a finished frame of kind `k` with payload `l` meets R38 to R42. -/
theorem slotInv_frame (p : Params) (k : Kind) (l : List Byte) (hp : p.legal) (hfit : 12 + l.length ≤ p.slotCap)
    (hlen : legalLen p k (12 + l.length)) :
    SlotInv p k ⟨(written p (frameBytes p (frameType k) l)).scr,
      BitVec.ofNat 8 (written p (frameBytes p (frameType k) l)).cur⟩ := by
  obtain ⟨-, hcap, -⟩ := hp
  have hn : (BitVec.ofNat 8 (12 + l.length)).toNat = 12 + l.length := by
    rw [BitVec.toNat_ofNat]; omega
  exact {
    capacity := written_length _ _ (by simpa using hfit)
    len_le := by simpa only [written, frameBytes_length, hn] using hfit
    zero_tail := by
      simp only [written, frameBytes_length, hn]
      rw [List.drop_left' (frameBytes_length _ _ _)]
    header_low := fun _ => by simp [written, frameBytes]
    length_byte := fun _ => by
      simp only [written, frameBytes_length]
      rw [← ofNat_frame_length]
      simp [frameBytes]
    header_high := fun _ => by simp [written, frameBytes, List.drop_append, List.take_append]
    frame_type := fun _ => by simp [written, frameBytes, List.getElem?_append]
    legal_len := by simpa only [written, frameBytes_length, hn] using hlen }

/-! ## What a build leaves, for the three kinds at once (R168, R169) -/

/-- What went out from `s` to `t` holds no adv_set. -/
def SendsNothing (s t : State) : Prop :=
  ∃ new : List PortEvent, t.trace = s.trace ++ new ∧ new.countP isAdvSet = 0

theorem sendsNothing_of_trace_eq {s t : State} (h : t.trace = s.trace) : SendsNothing s t :=
  ⟨[], by simp [h], rfl⟩

/-- A build of kind `k` takes `s` to `t`: it sets SLOT[k] and STATUS, and hands nothing to the radio. -/
structure BuildEffect (k : Kind) (s t : State) : Prop where
  params : t.params = s.params
  efe : ∃ sl c, t.efe = (s.efe.setSlot k sl).setStatus c (kindCode k) ∧ (s.params.legal → SlotInv s.params k sl)
  trace : SendsNothing s t

/-- A failed build, from a state `m` in which at most the sensors were sampled (R169). -/
theorem buildEffect_fail (k : Kind) (e : ErrKind) (s m : State) (new : List PortEvent) (hp : m.params = s.params)
    (he : m.efe = s.efe) (ht : m.trace = s.trace ++ new) (hn : new.countP isAdvSet = 0) :
    BuildEffect k s (fail k e m) where
  params := hp
  efe := ⟨_, _, by rw [fail_efe, he], fun _ => by rw [hp]; exact slotInv_empty _ _⟩
  trace := ⟨new ++ [.logErr (errCode e) (kindCode k)], by simp [ht], by simp [hn, isAdvSet]⟩

/-- A committed build of a whole frame, from such a state (R168). -/
theorem buildEffect_commit (k : Kind) (l : List Byte) (s m : State) (new : List PortEvent) (hp : m.params = s.params)
    (he : m.efe = s.efe) (ht : m.trace = s.trace ++ new) (hn : new.countP isAdvSet = 0)
    (hfit : 12 + l.length ≤ s.params.slotCap) (hlen : legalLen s.params k (12 + l.length)) :
    BuildEffect k s (commit k (written s.params (frameBytes s.params (frameType k) l)) m) where
  params := hp
  efe := ⟨_, _, by rw [commit_efe, he], fun hl => slotInv_frame _ _ _ hl hfit hlen⟩
  trace := ⟨new, ht, hn⟩

theorem uid_buildEffect (s : State) : BuildEffect .uid s (after .encodeUid s) := by
  rcases uid_build_cases s with ⟨hcap, h⟩ | ⟨-, h⟩ <;> rw [after, h]
  · exact buildEffect_commit .uid _ s s [] rfl rfl (by simp) rfl (by rw [uidPieces_length]; exact hcap)
      (.inr (by rw [uidPieces_length]))
  · exact buildEffect_fail .uid _ s s [] rfl rfl (by simp) rfl

theorem url_buildEffect (s : State) : BuildEffect .url s (after .encodeUrl s) := by
  rcases url_build_cases s with ⟨c, rem, -, hpos, hmax, hcap, h⟩ | ⟨c, rem, -, -, -, h⟩ | ⟨e, -, -, h⟩ <;> rw [after, h]
  · exact buildEffect_commit .url _ s s [] rfl rfl (by simp) rfl (by rw [urlPieces_length]; omega)
      (.inr (by rw [urlPieces_length]; omega))
  · exact buildEffect_fail .url _ s s [] rfl rfl (by simp) rfl
  · exact buildEffect_fail .url _ s s [] rfl rfl (by simp) rfl

theorem tlm_buildEffect (adv sec : Word) (s : State) : BuildEffect .tlm s (encodeOp .tlm (buildTlm adv sec) s) := by
  rcases tlm_build_cases adv sec s with ⟨hcap, h⟩ | ⟨-, h⟩ <;> rw [h]
  · exact buildEffect_commit .tlm _ s (afterSampling s) _ rfl rfl rfl rfl (by rw [tlmPieces_length]; exact hcap)
      (.inr (by rw [tlmPieces_length]))
  · exact buildEffect_fail .tlm _ s (afterSampling s) _ rfl rfl rfl rfl

/-- A build leaves the slots of the other kinds (R38). -/
theorem BuildEffect.slot_other {k j : Kind} {s t : State} (h : BuildEffect k s t) (hj : j ≠ k) :
    t.efe.slot j = s.efe.slot j := by
  obtain ⟨sl, c, he, -⟩ := h.efe
  rw [he, slot_setStatus, slot_setSlot_other _ _ _ _ hj]

/-- A build leaves the host-writable registers (R30). -/
theorem BuildEffect.config {k : Kind} {s t : State} (h : BuildEffect k s t) : withConfig t.efe s.efe = t.efe := by
  obtain ⟨sl, c, he, -⟩ := h.efe
  rw [he]
  cases k <;> rfl

theorem BuildEffect.live {k : Kind} {s t : State} (h : BuildEffect k s t) : t.efe.live = s.efe.live := by
  obtain ⟨sl, c, he, -⟩ := h.efe
  simp [he]

/-! ## What an active tick leaves (R230, R236) -/

/-- `s` after SLOT[k], which holds a frame, went to the radio (R236). -/
def pushed (k : Kind) (s : State) : State :=
  { s with efe := { s.efe with live := liveByte k, advcnt := s.efe.advcnt + 1 },
           trace := s.trace ++ [.advSet ((s.efe.slot k).buf.take (s.efe.slot k).len.toNat) (s.efe.slot k).len] }

theorem pushed_slot (k j : Kind) (s : State) : (pushed k s).efe.slot j = s.efe.slot j := by cases j <;> rfl

/-- The state an active tick has counted and, at a TLM entry, rebuilt its frame in (R230, R239, R240). -/
inductive BeforePush (s : State) : State → Prop where
  | rebuilt (m : State) (h9 : (s.efe.iter + 1).toNat % 9 = 0) (hb : BuildEffect .tlm (countTick s) m) : BeforePush s m
  | counted (h9 : (s.efe.iter + 1).toNat % 9 ≠ 0) : BeforePush s (countTick s)

/-- The end of an active tick on `s` from the state `m`: the kind the new ITER selects was sent, or nothing was. -/
inductive AfterPush (s m : State) : State → Prop where
  | unsent : AfterPush s m m
  | sent (k : Kind) (hk : kindAt (s.efe.iter + 1) = some k) : AfterPush s m (pushed k m)

theorem kindAt_of_selectEntry {n : Word} {r : RotationEntry} (h : selectEntry rotationTable n = some r) :
    kindAt n = some r.kind := by
  rw [kindAt, h]
  rfl

theorem afterPush_push (s m : State) (k : Kind) (hk : kindAt (s.efe.iter + 1) = some k) : AfterPush s m (push k m) := by
  rcases push_cases k m with ⟨-, h⟩ | ⟨-, h⟩ <;> rw [h]
  · exact .sent k hk
  · exact .unsent

/-- An active tick counts, rebuilds where the TLM entry says so, and then pushes at most the selected kind (R230). -/
theorem tickActive_cases (s : State) : ∃ m, BeforePush s m ∧ AfterPush s m (after .tickActive s) := by
  rcases dispatch_cases (countTick s) with ⟨h9, h⟩ | ⟨h9, h5, h⟩ | ⟨h9, h5, h3, h⟩ | ⟨h9, -, -, h⟩ <;> rw [after, h]
  · exact ⟨_, .rebuilt _ h9 (tlm_buildEffect _ _ _),
      afterPush_push _ _ _ (kindAt_of_selectEntry (selectEntry_tlm _ h9))⟩
  · exact ⟨_, .counted h9, afterPush_push _ _ _ (kindAt_of_selectEntry (selectEntry_url _ h9 h5))⟩
  · exact ⟨_, .counted h9, afterPush_push _ _ _ (kindAt_of_selectEntry (selectEntry_uid _ h9 h5 h3))⟩
  · exact ⟨_, .counted h9, .unsent⟩

/-! ### What stays on the way to the push -/

theorem BeforePush.params {s m : State} (h : BeforePush s m) : m.params = s.params := by
  cases h with
  | rebuilt m h9 hb => exact hb.params
  | counted h9 => rfl

theorem BeforePush.config {s m : State} (h : BeforePush s m) : withConfig m.efe s.efe = m.efe := by
  cases h with
  | rebuilt m h9 hb => exact hb.config
  | counted h9 => rfl

theorem BeforePush.live {s m : State} (h : BeforePush s m) : m.efe.live = s.efe.live := by
  cases h with
  | rebuilt m h9 hb => exact hb.live
  | counted h9 => rfl

theorem BeforePush.sendsNothing {s m : State} (h : BeforePush s m) : SendsNothing s m := by
  cases h with
  | rebuilt m h9 hb => exact hb.trace
  | counted h9 => exact sendsNothing_of_trace_eq rfl

/-- Only the TLM entry touches a slot, its own (R245). -/
theorem BeforePush.slot {s m : State} (h : BeforePush s m) (j : Kind)
    (hj : j = .tlm → (s.efe.iter + 1).toNat % 9 ≠ 0) : m.efe.slot j = s.efe.slot j := by
  cases h with
  | rebuilt m h9 hb => exact (hb.slot_other fun htlm => hj htlm h9).trans (by cases j <;> rfl)
  | counted h9 => cases j <;> rfl

/-- Without the TLM entry nothing is built, so STATUS stays. -/
theorem BeforePush.status {s m : State} (h : BeforePush s m) (hn : (s.efe.iter + 1).toNat % 9 ≠ 0) :
    m.efe.stErr = s.efe.stErr ∧ m.efe.stSrc = s.efe.stSrc := by
  cases h with
  | rebuilt m h9 hb => exact absurd h9 hn
  | counted h9 => exact ⟨rfl, rfl⟩

/-! ### What stays in the push -/

theorem AfterPush.params {s m t : State} (h : AfterPush s m t) : t.params = m.params := by
  cases h <;> rfl

theorem AfterPush.slot {s m t : State} (h : AfterPush s m t) (j : Kind) : t.efe.slot j = m.efe.slot j := by
  cases h with
  | unsent => rfl
  | sent k hk => exact pushed_slot k j m

theorem AfterPush.status {s m t : State} (h : AfterPush s m t) :
    t.efe.stErr = m.efe.stErr ∧ t.efe.stSrc = m.efe.stSrc := by
  cases h <;> exact ⟨rfl, rfl⟩

theorem AfterPush.config {s m t : State} (h : AfterPush s m t) {c : Efe} (hm : withConfig m.efe c = m.efe) :
    withConfig t.efe c = t.efe := by
  cases h with
  | unsent => exact hm
  | sent k hk => exact congrArg (fun e => { e with live := liveByte k, advcnt := m.efe.advcnt + 1 }) hm

/-! ## The register window: the address map, and a read after a write (R61, R140, R141) -/

/-- The map of R61 and the assembler's names of R104 agree, over the 256 addresses. -/
theorem regAddr_regAt : ∀ a : Byte, regAt a ≠ .reserved → regAddr (regAt a) = some a := by decide

theorem regAt_injective {a b : Byte} (h : regAt a = regAt b) : a = b ∨ regAt a = .reserved := by
  by_cases hr : regAt a = .reserved
  · exact .inr hr
  · have ha := regAddr_regAt a hr
    rw [h, regAddr_regAt b (h ▸ hr)] at ha
    exact .inl (Option.some.inj ha).symm

theorem regAt_eq_status (a : Byte) (h : regAt a = .status) : a = 0x01 := by
  simpa [h, regAddr, eq_comm] using regAddr_regAt a

theorem regAt_eq_config_iff (a : Byte) : regAt a = .config ↔ a = 0x02 := by
  constructor
  · intro h
    simpa [h, regAddr, eq_comm] using regAddr_regAt a
  · rintro rfl
    exact regAt_config _ rfl

theorem readByte_reserved (s : State) (a : Byte) (h : regAt a = .reserved) : readByte s a = 0x00 := by
  rw [readByte, h]
  rfl

/-- The registers that a host write stores into (R61). -/
def isReadWrite : Reg → Bool
  | .config | .rssi | .ns _ | .devid _ | .urlLen | .url _ => true
  | .cmd | .status | .counter _ _ | .slen _ | .live | .window _ _ | .reserved => false

theorem isReadWrite_regAt : ∀ a : Byte, isReadWrite (regAt a) = true ↔ writable a.toNat := by
  unfold writable
  decide

theorem regWrite_readOnly (e : Efe) (r : Reg) (d : Byte) (h : isReadWrite r = false) : regWrite e r d = e := by
  cases r with
  | config | rssi | ns _ | devid _ | urlLen | url _ => cases h
  | cmd | status | counter _ _ | slen _ | live | window _ _ | reserved => rfl

theorem extractLsb'_zero_one_setWidth (d : Byte) : (d.extractLsb' 0 1).setWidth 8 = d &&& 0x01 := by
  revert d; decide

/-- A read-write register keeps the byte written, CONFIG its bit 0 (R25). -/
theorem regRead_regWrite_same (p : Params) (e : Efe) (r : Reg) (d : Byte) (h : isReadWrite r = true) :
    regRead p (regWrite e r d) r = if r = .config then d &&& 0x01 else d := by
  cases r with
  | config => exact extractLsb'_zero_one_setWidth d
  | ns i => exact Vector.getElem_set_self _
  | devid i => exact Vector.getElem_set_self _
  | url i => exact Vector.getElem_set_self _
  | rssi | urlLen => rfl
  | cmd | status | counter _ _ | slen _ | live | window _ _ | reserved => cases h

/-- A write to one register is not seen in another. -/
theorem regRead_regWrite_other (p : Params) (e : Efe) (r q : Reg) (d : Byte) (h : q ≠ r) :
    regRead p (regWrite e r d) q = regRead p e q := by
  cases r with
  | config => cases q with
    | config => exact absurd rfl h
    | _ => rfl
  | rssi => cases q with
    | rssi => exact absurd rfl h
    | _ => rfl
  | ns i => cases q with
    | ns j => exact Vector.getElem_set_ne i.isLt j.isLt fun hij => h (by rw [Fin.ext hij])
    | _ => rfl
  | devid i => cases q with
    | devid j => exact Vector.getElem_set_ne i.isLt j.isLt fun hij => h (by rw [Fin.ext hij])
    | _ => rfl
  | urlLen => cases q with
    | urlLen => exact absurd rfl h
    | _ => rfl
  | url i => cases q with
    | url j => exact Vector.getElem_set_ne i.isLt j.isLt fun hij => h (by rw [Fin.ext hij])
    | _ => rfl
  | cmd | status | counter _ _ | slen _ | live | window _ _ | reserved => rfl

/-! ## Every event at once -/

theorem decodeCommand_wf (d : Byte) : (decodeCommand d).wf = true := by revert d; decide

theorem decodeCommand_ne_rd (d a : Byte) : decodeCommand d ≠ .rd a := by
  unfold decodeCommand
  split_ifs <;> simp

theorem decodeCommand_ne_reset (d : Byte) : decodeCommand d ≠ .reset := by revert d; decide

/-- The events as the machine performs them, the same for every state: all but a WR of CMD, which is its command (R142). -/
theorem exec_performs (i : Instr) :
    ∃ j : Instr, (∀ s, exec i s = .next (after j s)) ∧ (j = i ∨ ∃ d, i = .wr 0x00 d ∧ j = decodeCommand d) := by
  by_cases h : ∃ d, i = .wr 0x00 d
  · obtain ⟨d, rfl⟩ := h
    exact ⟨decodeCommand d, fun s => (hostCommand_eq d s).trans (exec_after _ s (decodeCommand_wf d)),
      .inr ⟨d, rfl, rfl⟩⟩
  · refine ⟨i, fun s => ?_, .inl rfl⟩
    cases i with
    | wr a d => exact exec_wr a d s fun ha => h ⟨d, by rw [ha]⟩
    | _ => rfl

/-! ## The invariant (R35, R38 to R43) -/

/-- The invariant with its three slot clauses as one, over the kinds. -/
theorem inv_iff (s : State) :
    Inv s ↔ s.params.legal ∧ (∀ k, SlotInv s.params k (s.efe.slot k)) ∧ s.efe.iter = s.efe.seccnt ∧
      (s.efe.live = 0x00 ∨ s.efe.live = 0x01 ∨ s.efe.live = 0x02 ∨ s.efe.live = 0xFF) := by
  constructor
  · rintro ⟨hp, hu, hr, ht, hc, hl⟩
    exact ⟨hp, fun k => by cases k <;> assumption, hc, hl⟩
  · rintro ⟨hp, hs, hc, hl⟩
    exact ⟨hp, hs .uid, hs .url, hs .tlm, hc, hl⟩

theorem inv_reset (p : Params) (hp : p.legal) (s : State) (hs : s.params = p) (he : s.efe = Efe.reset p) : Inv s := by
  subst hs
  rw [inv_iff, he]
  exact ⟨hp, fun k => by cases k <;> exact slotInv_empty _ _, rfl, .inr (.inr (.inr rfl))⟩

/-- A build keeps the invariant: its own slot is a whole frame or empty, the rest stays. -/
theorem BuildEffect.inv {k : Kind} {s t : State} (h : BuildEffect k s t) (hs : Inv s) : Inv t := by
  rw [inv_iff] at hs ⊢
  obtain ⟨hp, hslot, hc, hl⟩ := hs
  obtain ⟨sl, c, he, hsl⟩ := h.efe
  refine ⟨h.params ▸ hp, fun j => ?_, by simpa [he] using hc, by simpa [he] using hl⟩
  rw [h.params]
  by_cases hj : j = k
  · subst hj
    simpa [he] using hsl hp
  · rw [h.slot_other hj]
    exact hslot j

theorem inv_countTick (s : State) (hs : Inv s) : Inv (countTick s) := by
  obtain ⟨hp, hu, hr, ht, hc, hl⟩ := hs
  exact ⟨hp, hu, hr, ht, congrArg (· + 1) hc, hl⟩

theorem inv_pushed (k : Kind) (s : State) (hs : Inv s) : Inv (pushed k s) := by
  obtain ⟨hp, hu, hr, ht, hc, -⟩ := hs
  refine ⟨hp, hu, hr, ht, hc, ?_⟩
  cases k
  · exact .inl rfl
  · exact .inr (.inl rfl)
  · exact .inr (.inr (.inl rfl))

theorem BeforePush.inv {s m : State} (h : BeforePush s m) (hs : Inv s) : Inv m := by
  cases h with
  | rebuilt m h9 hb => exact hb.inv (inv_countTick s hs)
  | counted h9 => exact inv_countTick s hs

theorem AfterPush.inv {s m t : State} (h : AfterPush s m t) (hm : Inv m) : Inv t := by
  cases h with
  | unsent => exact hm
  | sent k hk => exact inv_pushed k m hm

theorem inv_regWrite (s : State) (r : Reg) (d : Byte) (hs : Inv s) : Inv { s with efe := regWrite s.efe r d } := by
  obtain ⟨-, -, hi, -, hsec, hu, hr, ht, hl⟩ := regWrite_frame s.efe r d
  exact ⟨hs.params, hu ▸ hs.uid, hr ▸ hs.url, ht ▸ hs.tlm, by rw [hi, hsec]; exact hs.counters, by rw [hl]; exact hs.live⟩

/-- Every event keeps the invariant. -/
theorem inv_after (i : Instr) (s : State) (hs : Inv s) : Inv (after i s) := by
  cases i with
  | nop => exact hs
  | encodeUid => exact (uid_buildEffect s).inv hs
  | encodeUrl => exact (url_buildEffect s).inv hs
  | encodeTlm => exact (tlm_buildEffect _ _ s).inv hs
  | cmdReserved c => exact ⟨hs.params, hs.uid, hs.url, hs.tlm, hs.counters, hs.live⟩
  | wr a d => exact inv_regWrite s _ d hs
  | rd a => exact ⟨hs.params, hs.uid, hs.url, hs.tlm, hs.counters, hs.live⟩
  | tickActive =>
    obtain ⟨m, hm, hend⟩ := tickActive_cases s
    exact hend.inv (hm.inv hs)
  | tickInactive => exact hs
  | reset => exact inv_reset s.params hs.params _ rfl rfl

/-- Settles O59: the invariant is kept by taking an event from the input and by every event. -/
theorem stepKeepsInvariant : Obligations.StepKeepsInvariant := by
  intro s t hs hstep
  unfold step at hstep
  split at hstep
  · cases hstep
    exact hs
  · rename_i w s' htake
    obtain ⟨hp, he, -⟩ := takeEvent_frame s s' w htake
    have hs' : Inv s' := by
      rw [inv_iff, hp, he]
      exact (inv_iff s).1 hs
    obtain ⟨j, hj, -⟩ := exec_performs (decode w)
    rw [hj s'] at hstep
    cases hstep
    exact inv_after j s' hs'

/-- Settles O58: the slots are empty, the counters 0 and LIVE is 0xFF. -/
theorem resetMeetsInvariant : Obligations.ResetMeetsInvariant := by
  refine ⟨inv_reset Params.default (by decide) _ rfl rfl, fun s t hp h => ?_⟩
  cases h
  exact inv_reset s.params hp _ rfl rfl

/-! ## The slots (R38) -/

/-- The command that builds a frame of kind `k` (R92). -/
def buildCommand : Kind → Instr
  | .uid => .encodeUid
  | .url => .encodeUrl
  | .tlm => .encodeTlm

/-- Only its build command, RESET, and for SLOT[2] a tick of the TLM entry change a slot (R38, R245). -/
theorem slot_after (i : Instr) (s : State) (j : Kind) (hcmd : i ≠ buildCommand j) (hreset : i ≠ .reset)
    (htick : i = .tickActive → j = .tlm → (s.efe.iter + 1).toNat % 9 ≠ 0) :
    (after i s).efe.slot j = s.efe.slot j := by
  cases i with
  | encodeUid => exact (uid_buildEffect s).slot_other (by rintro rfl; exact hcmd rfl)
  | encodeUrl => exact (url_buildEffect s).slot_other (by rintro rfl; exact hcmd rfl)
  | encodeTlm => exact (tlm_buildEffect _ _ s).slot_other (by rintro rfl; exact hcmd rfl)
  | cmdReserved c => cases j <;> rfl
  | wr a d =>
    obtain ⟨-, -, -, -, -, hu, hr, ht, -⟩ := regWrite_frame s.efe (regAt a) d
    cases j
    · exact hu
    · exact hr
    · exact ht
  | tickActive =>
    obtain ⟨m, hm, hend⟩ := tickActive_cases s
    exact (hend.slot j).trans (hm.slot j (htick rfl))
  | reset => exact absurd rfl hreset
  | nop | rd _ | tickInactive => rfl

/-- Settles O50: one frame lemma over the three kinds. -/
theorem slotsChangeOnlyByTheirBuild : Obligations.SlotsChangeOnlyByTheirBuild := by
  intro i s t hw h
  rw [exec_after i s hw] at h
  cases h
  exact ⟨fun hc hr => slot_after i s .uid hc hr (by simp), fun hc hr => slot_after i s .url hc hr (by simp),
    fun hc hr ht => slot_after i s .tlm hc hr fun hi _ => ht hi⟩

/-! ## LIVE (R35) -/

/-- LIVE stays without an adv_set, and with one it is the kind that the ITER of the tick selects. -/
def LiveNamesPush (s t : State) : Prop :=
  ∃ new : List PortEvent, t.trace = s.trace ++ new ∧
    (new.countP isAdvSet = 0 → t.efe.live = s.efe.live) ∧
    (new.countP isAdvSet ≠ 0 → ∃ k : Kind, kindAt (s.efe.iter + 1) = some k ∧ t.efe.live = liveByte k)

theorem SendsNothing.liveNamesPush {s t : State} (h : SendsNothing s t) (hl : t.efe.live = s.efe.live) :
    LiveNamesPush s t := by
  obtain ⟨new, ht, hn⟩ := h
  exact ⟨new, ht, fun _ => hl, fun hne => absurd hn hne⟩

theorem liveNamesPush_tickActive (s : State) : LiveNamesPush s (after .tickActive s) := by
  obtain ⟨m, hm, hend⟩ := tickActive_cases s
  generalize after .tickActive s = t at hend ⊢
  cases hend with
  | unsent => exact hm.sendsNothing.liveNamesPush hm.live
  | sent k hk =>
    obtain ⟨new, ht, -⟩ := hm.sendsNothing
    refine ⟨new ++ [.advSet ((m.efe.slot k).buf.take (m.efe.slot k).len.toNat) (m.efe.slot k).len],
      by simp [pushed, ht], fun h0 => ?_, fun _ => ⟨k, hk, rfl⟩⟩
    simp [isAdvSet] at h0

theorem liveNamesPush_after (i : Instr) (s : State) (hi : i ≠ .reset) : LiveNamesPush s (after i s) := by
  cases i with
  | encodeUid => exact (uid_buildEffect s).trace.liveNamesPush (uid_buildEffect s).live
  | encodeUrl => exact (url_buildEffect s).trace.liveNamesPush (url_buildEffect s).live
  | encodeTlm => exact (tlm_buildEffect _ _ s).trace.liveNamesPush (tlm_buildEffect _ _ s).live
  | cmdReserved c => exact SendsNothing.liveNamesPush ⟨_, rfl, rfl⟩ rfl
  | wr a d =>
    obtain ⟨-, -, -, -, -, -, -, -, hl⟩ := regWrite_frame s.efe (regAt a) d
    have hs : SendsNothing s (after (.wr a d) s) := sendsNothing_of_trace_eq rfl
    exact hs.liveNamesPush hl
  | rd a => exact SendsNothing.liveNamesPush ⟨_, rfl, rfl⟩ rfl
  | tickActive => exact liveNamesPush_tickActive s
  | reset => exact absurd rfl hi
  | nop | tickInactive => exact (sendsNothing_of_trace_eq rfl).liveNamesPush rfl

/-- Settles O49: only the push at the end of an active tick sends, and it sets LIVE. -/
theorem liveNamesLastPush : Obligations.LiveNamesLastPush := by
  intro i s t hi h
  obtain ⟨j, hj, hij⟩ := exec_performs i
  rw [hj s] at h
  cases h
  refine liveNamesPush_after j s ?_
  rcases hij with rfl | ⟨d, -, rfl⟩
  · exact hi
  · exact decodeCommand_ne_reset d

/-! ## Parameters and configuration (R22, R49) -/

theorem params_after (i : Instr) (s : State) : (after i s).params = s.params := by
  cases i with
  | encodeUid => exact (uid_buildEffect s).params
  | encodeUrl => exact (url_buildEffect s).params
  | encodeTlm => exact (tlm_buildEffect _ _ s).params
  | tickActive =>
    obtain ⟨m, hm, hend⟩ := tickActive_cases s
    exact hend.params.trans hm.params
  | nop | cmdReserved _ | wr _ _ | rd _ | tickInactive | reset => rfl

theorem config_after (i : Instr) (s : State) (hw : ∀ a d, i ≠ .wr a d) (hr : i ≠ .reset) :
    withConfig (after i s).efe s.efe = (after i s).efe := by
  cases i with
  | encodeUid => exact (uid_buildEffect s).config
  | encodeUrl => exact (url_buildEffect s).config
  | encodeTlm => exact (tlm_buildEffect _ _ s).config
  | wr a d => exact absurd rfl (hw a d)
  | tickActive =>
    obtain ⟨m, hm, hend⟩ := tickActive_cases s
    exact hend.config hm.config
  | reset => exact absurd rfl hr
  | nop | cmdReserved _ | rd _ | tickInactive => rfl

/-- Settles O51: no event writes `params`, and a build or a push writes no host-writable register. -/
theorem configurationChangesOnlyByHost : Obligations.ConfigurationChangesOnlyByHost := by
  intro i s t h
  obtain ⟨j, hj, hij⟩ := exec_performs i
  rw [hj s] at h
  cases h
  refine ⟨params_after j s, fun hw hr => ?_⟩
  rcases hij with rfl | ⟨d, hi, -⟩
  · exact config_after j s hw hr
  · exact absurd hi (hw _ _)

/-! ## STATUS: its fields and its writers (R24) -/

/-- The placement of the fields in the byte (R24), over every value of them. -/
theorem status_bits : ∀ (err src : BitVec 2) (u r l : Bool),
    let b : Byte := err.setWidth 8 ||| (src.setWidth 8 <<< 2) ||| ((BitVec.ofBool u).setWidth 8 <<< 4) |||
      ((BitVec.ofBool r).setWidth 8 <<< 5) ||| ((BitVec.ofBool l).setWidth 8 <<< 6)
    b.extractLsb' 0 2 = err ∧ b.extractLsb' 2 2 = src ∧ b.getLsbD 4 = u ∧ b.getLsbD 5 = r ∧ b.getLsbD 6 = l ∧
      b.getLsbD 7 = false := by decide

theorem validBit_eq (sl : Slot) : validBit sl = (BitVec.ofBool (decide (sl.len ≠ 0))).setWidth 8 := by
  unfold validBit
  by_cases h : sl.len = 0
  · rw [if_neg (not_not_intro h), decide_eq_false (not_not_intro h)]
    rfl
  · rw [if_pos h, decide_eq_true h]
    rfl

theorem statusByte_fields (e : Efe) :
    (statusByte e).extractLsb' 0 2 = e.stErr ∧ (statusByte e).extractLsb' 2 2 = e.stSrc ∧
    ((statusByte e).getLsbD 4 = true ↔ e.slotUid.len ≠ 0) ∧ ((statusByte e).getLsbD 5 = true ↔ e.slotUrl.len ≠ 0) ∧
    ((statusByte e).getLsbD 6 = true ↔ e.slotTlm.len ≠ 0) ∧ (statusByte e).getLsbD 7 = false := by
  obtain ⟨herr, hsrc, hu, hr, hl, h7⟩ := status_bits e.stErr e.stSrc (decide (e.slotUid.len ≠ 0))
    (decide (e.slotUrl.len ≠ 0)) (decide (e.slotTlm.len ≠ 0))
  simp only [statusByte, validBit_eq]
  refine ⟨herr, hsrc, ?_, ?_, ?_, h7⟩
  · rw [hu, decide_eq_true_iff]
  · rw [hr, decide_eq_true_iff]
  · rw [hl, decide_eq_true_iff]

/-- The events that can write ERR or SRC: the builds, a reserved command, RESET, and a tick of the TLM entry. -/
def WritesStatus (i : Instr) (s : State) : Prop :=
  i = .encodeUid ∨ i = .encodeUrl ∨ i = .encodeTlm ∨ (∃ c, i = .cmdReserved c) ∨ i = .reset ∨
    (i = .tickActive ∧ (s.efe.iter + 1).toNat % 9 = 0)

theorem status_after (i : Instr) (s : State) (h : ¬ WritesStatus i s) :
    (after i s).efe.stErr = s.efe.stErr ∧ (after i s).efe.stSrc = s.efe.stSrc := by
  cases i with
  | wr a d =>
    obtain ⟨herr, hsrc, -⟩ := regWrite_frame s.efe (regAt a) d
    exact ⟨herr, hsrc⟩
  | tickActive =>
    obtain ⟨m, hm, hend⟩ := tickActive_cases s
    have h9 : (s.efe.iter + 1).toNat % 9 ≠ 0 := by simpa [WritesStatus] using h
    obtain ⟨herr, hsrc⟩ := hm.status h9
    obtain ⟨herr', hsrc'⟩ := hend.status
    exact ⟨herr'.trans herr, hsrc'.trans hsrc⟩
  | nop | rd _ | tickInactive => exact ⟨rfl, rfl⟩
  | encodeUid | encodeUrl | encodeTlm | cmdReserved _ | reset => simp [WritesStatus] at h

/-- Settles O19: the byte's layout, its value at reset, and the events that keep ERR and SRC. -/
theorem statusFieldsAndWriters : Obligations.StatusFieldsAndWriters := by
  refine ⟨fun s => statusByte_fields s.efe, by decide, fun i s t hw h hne => ?_⟩
  rw [exec_after i s hw] at h
  cases h
  by_contra hn
  obtain ⟨herr, hsrc⟩ := status_after i s hn
  exact hne.elim (absurd herr) (absurd hsrc)

/-! ## Nothing inside reads ERR or SRC (R45) -/

/-- `s` with other values of ERR and SRC. -/
def restatus (c r : BitVec 2) (s : State) : State := { s with efe := s.efe.setStatus c r }

/-- A build overwrites both fields, so it forgets what they were, if its body does not read them (R168, R169). -/
theorem encodeOp_restatus (k : Kind) (body : State → State × Except ErrKind Scratch) (c r : BitVec 2) (s : State)
    (h : body (restatus c r s) = ((restatus c r (body s).1), (body s).2)) :
    encodeOp k body (restatus c r s) = encodeOp k body s := by
  unfold encodeOp
  rw [h]
  rcases body s with ⟨m, e | b⟩ <;> cases k <;> rfl

theorem encodeOp_tlm_restatus (adv sec : Word) (c r : BitVec 2) (s : State) :
    encodeOp .tlm (buildTlm adv sec) (restatus c r s) = encodeOp .tlm (buildTlm adv sec) s :=
  encodeOp_restatus _ _ c r s (by rw [buildTlm_eq, buildTlm_eq]; rfl)

theorem push_restatus (k : Kind) (c r : BitVec 2) (s : State) :
    push k (restatus c r s) = restatus c r (push k s) := by
  have hslot : (restatus c r s).efe.slot k = s.efe.slot k := slot_setStatus s.efe c r k
  by_cases h : (s.efe.slot k).len = 0
  · rw [push_empty k s h, push_empty k _ (by rw [hslot]; exact h)]
  · rw [push_valid k s h, push_valid k _ (by rw [hslot]; exact h), hslot]
    rfl

/-- A tick that rebuilds overwrites ERR and SRC; any other carries them along. -/
theorem dispatch_restatus (c r : BitVec 2) (s : State) :
    dispatch (restatus c r s) = dispatch s ∨ dispatch (restatus c r s) = restatus c r (dispatch s) := by
  have hiter : (restatus c r s).efe.iter = s.efe.iter := rfl
  unfold dispatch
  rw [hiter]
  cases selectEntry rotationTable s.efe.iter with
  | none => exact .inr rfl
  | some entry =>
    by_cases hb : entry.rebuild = true
    · simp only [if_pos hb]
      exact .inl (congrArg (push entry.kind) (encodeOp_tlm_restatus _ _ c r s))
    · simp only [if_neg hb]
      exact .inr (push_restatus entry.kind c r s)

theorem regRead_restatus (p : Params) (e : Efe) (c r : BitVec 2) (reg : Reg) (h : reg ≠ .status) :
    regRead p (e.setStatus c r) reg = regRead p e reg := by
  cases reg with
  | status => exact absurd rfl h
  | window k i => exact congrArg (windowByte p · i.val) (slot_setStatus e c r k)
  | slen k => exact congrArg Slot.len (slot_setStatus e c r k)
  | counter n j => cases n <;> rfl
  | cmd | config | rssi | ns _ | devid _ | urlLen | url _ | live | reserved => rfl

theorem regWrite_restatus (e : Efe) (c r : BitVec 2) (reg : Reg) (d : Byte) :
    regWrite (e.setStatus c r) reg d = (regWrite e reg d).setStatus c r := by
  cases reg <;> rfl

/-- An event either overwrites ERR and SRC or carries them along unread. -/
theorem after_restatus (i : Instr) (c r : BitVec 2) (s : State) (hi : i ≠ .rd 0x01) :
    after i (restatus c r s) = after i s ∨ after i (restatus c r s) = restatus c r (after i s) := by
  cases i with
  | encodeUid => exact .inl (encodeOp_restatus .uid (fun s => (s, buildUid s.params s.efe)) c r s rfl)
  | encodeUrl => exact .inl (encodeOp_restatus .url (fun s => (s, buildUrl s.params s.efe)) c r s rfl)
  | encodeTlm => exact .inl (encodeOp_tlm_restatus _ _ c r s)
  | cmdReserved _ | reset => exact .inl rfl
  | wr a d => exact .inr (congrArg (fun e => { s with efe := e }) (regWrite_restatus s.efe c r (regAt a) d))
  | rd a =>
    have hread : readByte (restatus c r s) a = readByte s a :=
      regRead_restatus _ _ c r _ fun ha => hi (by rw [regAt_eq_status a ha])
    exact .inr (by rw [after, hread]; rfl)
  | tickActive => exact dispatch_restatus c r (countTick s)
  | nop | tickInactive => exact .inr rfl

/-- Settles O53: whichever of the two an event does, only ERR and SRC can differ after it. -/
theorem statusIsNeverReadInside : Obligations.StatusIsNeverReadInside := by
  intro i s c r hi
  obtain ⟨j, hj, hij⟩ := exec_performs i
  have hjr : j ≠ .rd 0x01 := by
    rcases hij with rfl | ⟨d, -, rfl⟩
    · exact hi
    · exact decodeCommand_ne_rd d 0x01
  refine ⟨_, _, hj s, hj (restatus c r s), ?_⟩
  rcases after_restatus j c r s hjr with h | h <;> rw [h]
  rfl

/-! ## Host reads and writes (R37, R61, R65) -/

/-- Settles O14: both ranges are `reserved` in the map, whose read is 0x00 and whose write drops. -/
theorem reservedAddressesInert : Obligations.ReservedAddressesInert := by
  intro s a d h
  have hreg : regAt a = .reserved := h.elim (regAt_reserved_low a) (regAt_reserved_high a)
  have ha : a ≠ 0x00 := by rintro rfl; simp at h
  refine ⟨?_, ?_⟩
  · rw [exec_rd, readByte_reserved s a hreg]
  · rw [exec_wr a d s ha, hreg]
    rfl

/-- Settles O13: a write reaches one register, and two addresses share a register only where it is `reserved`. -/
theorem writeThenReadBack : Obligations.WriteThenReadBack := by
  intro s a d ha
  refine ⟨_, exec_wr a d s ha, fun hw => ?_, fun hw => ?_, fun b hb => ?_⟩
  · simp only [readByte, regRead_regWrite_same _ _ _ _ ((isReadWrite_regAt a).2 hw), regAt_eq_config_iff]
  · rw [regWrite_readOnly _ _ _ (Bool.eq_false_of_not_eq_true (mt (isReadWrite_regAt a).1 hw))]
  · by_cases hreg : regAt b = regAt a
    · have hres : regAt b = .reserved := (regAt_injective hreg).resolve_left hb
      rw [readByte_reserved _ b hres, readByte_reserved s b hres]
    · exact regRead_regWrite_other _ _ _ _ _ hreg

end Sys2Proof.Proofs

/-! # The memory system (20_memory.md): the register window and the order of events -/

namespace Sys2Proof.Proofs

open Sys2Proof Sys2Proof.Machine Sys2Proof.Claims Sys2Proof.Safety Sys2Proof.Laws

/-! ## What an event leaves of the event input (R72) -/

/-- A build takes nothing from the event input, if its body does not. -/
theorem encodeOp_inputs (k : Kind) (body : State → State × Except ErrKind Scratch) (s : State)
    (h : (body s).1.inputs = s.inputs) : (encodeOp k body s).inputs = s.inputs := by
  rcases hb : body s with ⟨m, e | b⟩ <;> rw [hb] at h
  · rw [encodeOp_error k body s m e hb, fail_inputs, h]
  · rw [encodeOp_ok k body s m b hb, commit_inputs, h]

theorem encodeOp_tlm_inputs (adv sec : Word) (s : State) :
    (encodeOp .tlm (buildTlm adv sec) s).inputs = s.inputs :=
  encodeOp_inputs _ _ s (by rw [buildTlm_eq])

theorem push_inputs (k : Kind) (s : State) : (push k s).inputs = s.inputs := by
  rcases push_cases k s with ⟨-, h⟩ | ⟨-, h⟩ <;> rw [h]

theorem dispatch_inputs (s : State) : (dispatch s).inputs = s.inputs := by
  rcases dispatch_cases s with ⟨-, h⟩ | ⟨-, -, h⟩ | ⟨-, -, -, h⟩ | ⟨-, -, -, h⟩ <;> rw [h]
  · rw [push_inputs, encodeOp_tlm_inputs]
  · exact push_inputs .url s
  · exact push_inputs .uid s

theorem inputs_after (i : Instr) (s : State) : (after i s).inputs = s.inputs := by
  cases i with
  | encodeUid => exact encodeOp_inputs .uid _ s rfl
  | encodeUrl => exact encodeOp_inputs .url _ s rfl
  | encodeTlm => exact encodeOp_tlm_inputs _ _ s
  | tickActive => exact dispatch_inputs (countTick s)
  | nop | cmdReserved _ | wr _ _ | rd _ | tickInactive | reset => rfl

/-! ## Two events presented together (R74) -/

theorem step_of_takeEvent (s s' : State) (w : EventWord) (h : takeEvent s = some (w, s')) :
    step s = exec (decode w) s' := by
  rw [step, h]

/-- A step that takes `first` and leaves `second` next performs it, and the step after that performs `second`. -/
theorem step_then_step (s : State) (first second : EventWord) (rest : List Presented)
    (h : takeEvent s = some (first, { s with inputs := .single second :: rest, draws := s.draws + 1 })) :
    ∃ s1 : State, exec (decode first) { s with inputs := .single second :: rest, draws := s.draws + 1 } = .next s1 ∧
      step s = .next s1 ∧ step s1 = exec (decode second) { s1 with inputs := rest } := by
  obtain ⟨i, hi, -⟩ := exec_performs (decode first)
  have hexec := hi { s with inputs := .single second :: rest, draws := s.draws + 1 }
  exact ⟨_, hexec, (step_of_takeEvent s _ first h).trans hexec,
    step_of_takeEvent _ _ second (takeEvent_single _ second rest (inputs_after i _))⟩

/-- Settles O8: the free value picks the first of the pair, and no event touches the input, where the other waits. -/
theorem simultaneousEventsInEitherOrder : Obligations.SimultaneousEventsInEitherOrder := by
  intro s host tick rest h
  rcases takeEvent_together s host tick rest h with htake | htake
  · exact ⟨host, tick, .inl ⟨rfl, rfl⟩, step_then_step s host tick rest htake⟩
  · exact ⟨tick, host, .inr ⟨rfl, rfl⟩, step_then_step s tick host rest htake⟩

/-! ## Counters in the register window (R70) -/

theorem regAt_counter (c : Counter) (j : Fin 4) : regAt (BitVec.ofNat 8 (c.base + j.val)) = .counter c j := by
  cases c <;> revert j <;> decide

theorem readByte_counter (s : State) (c : Counter) (j : Nat) (hj : j < 4) :
    readByte s (BitVec.ofNat 8 (c.base + j)) = counterByte (s.efe.counter c) j := by
  rw [readByte, regAt_counter c ⟨j, hj⟩]
  rfl

/-- The four bytes in the window's order are the big-endian field of R67. -/
theorem counterBytes_eq_field32 (v : Word) :
    [counterByte v 0, counterByte v 1, counterByte v 2, counterByte v 3] = field32 v := by
  have hbyte (n : Nat) : v.extractLsb' n 8 = BitVec.ofNat 8 (v.toNat / 2 ^ n) := by
    rw [BitVec.extractLsb', Nat.shiftRight_eq_div_pow]
  simp [counterByte, field32, hbyte]

/-- rd32 undoes the split into bytes (R105). -/
theorem rd32Value_counterBytes (v : Word) :
    rd32Value (counterByte v 0) (counterByte v 1) (counterByte v 2) (counterByte v 3) = v := by
  apply BitVec.eq_of_toNat_eq
  simp only [rd32Value, counterByte, BitVec.toNat_add, BitVec.toNat_shiftLeft, BitVec.toNat_setWidth,
    BitVec.extractLsb'_toNat, Nat.shiftLeft_eq, Nat.shiftRight_eq_div_pow]
  omega

theorem counterGroup_eq_field32 (s : State) (c : Counter) :
    [readByte s (BitVec.ofNat 8 (c.base + 0)), readByte s (BitVec.ofNat 8 (c.base + 1)),
      readByte s (BitVec.ofNat 8 (c.base + 2)), readByte s (BitVec.ofNat 8 (c.base + 3))] =
      field32 (s.efe.counter c) := by
  rw [readByte_counter s c 0 (by decide), readByte_counter s c 1 (by decide), readByte_counter s c 2 (by decide),
    readByte_counter s c 3 (by decide), counterBytes_eq_field32]

/-- Settles O20: byte `j` of a group is bits 31 - 8j to 24 - 8j of its counter, for each of the three groups. -/
theorem countersReadBigEndian : Obligations.CountersReadBigEndian := fun s =>
  ⟨counterGroup_eq_field32 s .iter, counterGroup_eq_field32 s .advcnt, counterGroup_eq_field32 s .seccnt,
    rd32Value_counterBytes s.efe.iter⟩

/-! ## Repeated events (R66) -/

theorem regWrite_repeat (e : Efe) (r : Reg) (d : Byte) : regWrite (regWrite e r d) r d = regWrite e r d := by
  cases r with
  | ns i => exact congrArg (fun v => { e with ns := v }) (Vector.set_set ..)
  | devid i => exact congrArg (fun v => { e with devid := v }) (Vector.set_set ..)
  | url i => exact congrArg (fun v => { e with url := v }) (Vector.set_set ..)
  | config | rssi | urlLen | cmd | status | counter _ _ | slen _ | live | window _ _ | reserved => rfl

/-- A build repeats itself, if its body samples nothing and reads neither its own slot nor STATUS (R168, R169). -/
theorem encodeOp_repeat (k : Kind) (build : Params → Efe → Except ErrKind Scratch) (s : State)
    (h : ∀ sl c, build s.params ((s.efe.setSlot k sl).setStatus c (kindCode k)) = build s.params s.efe) :
    (encodeOp k (fun s => (s, build s.params s.efe)) (encodeOp k (fun s => (s, build s.params s.efe)) s)).efe =
      (encodeOp k (fun s => (s, build s.params s.efe)) s).efe := by
  rcases hb : build s.params s.efe with e | b
  · have hagain : build (fail k e s).params (fail k e s).efe = .error e := (h _ _).trans hb
    rw [encodeOp_error k _ s s e (congrArg (s, ·) hb), encodeOp_error k _ (fail k e s) _ e (congrArg (_, ·) hagain)]
    cases k <;> rfl
  · have hagain : build (commit k b s).params (commit k b s).efe = .ok b := (h _ _).trans hb
    rw [encodeOp_ok k _ s s b (congrArg (s, ·) hb), encodeOp_ok k _ (commit k b s) _ b (congrArg (_, ·) hagain)]
    cases k <;> rfl

/-- Reset, with two battery samples to come that differ (T6). -/
def batterySagging : State := { State.reset with battPort := [3000, 2999], tempPort := [0x1780, 0x1780] }

/-- The second TLM build takes the second sample. -/
theorem slotTlm_batterySagging :
    (after .encodeTlm (after .encodeTlm batterySagging)).efe.slotTlm ≠
      (after .encodeTlm batterySagging).efe.slotTlm := by decide

/-- Settles O38: reads and writes over the map, the two builds from registers alone, and a TLM build from sensors. -/
theorem repeatedEventsIdempotent : Obligations.RepeatedEventsIdempotent := by
  refine ⟨fun a s t h => ?_, fun a d s t ha h => ?_, fun s t t' h h' => ?_, fun s t t' h h' => ?_, ?_⟩
  · cases h
    exact ⟨rfl, rfl⟩
  · rw [exec_wr a d s ha] at h
    cases h
    rw [exec_wr a d _ ha, regWrite_repeat]
  · cases h
    cases h'
    exact encodeOp_repeat .uid buildUid s fun _ _ => rfl
  · cases h
    cases h'
    exact encodeOp_repeat .url buildUrl s fun _ _ => rfl
  · exact ⟨batterySagging, _, _, exec_encodeTlm _, exec_encodeTlm _, slotTlm_batterySagging⟩

/-! ## Register names (R61, R104) -/

theorem regAt_nsAddr (i : Fin 10) : regAt (BitVec.ofNat 8 (0x04 + i.val)) = .ns i := by
  revert i; decide

theorem regAt_devidAddr (i : Fin 6) : regAt (BitVec.ofNat 8 (0x0E + i.val)) = .devid i := by
  revert i; decide

theorem regAt_urlAddr (i : Fin 32) : regAt (BitVec.ofNat 8 (0x20 + i.val)) = .url i := by
  revert i; decide

theorem regAddr_counter (c : Counter) (j : Fin 4) :
    regAddr (.counter c j) = some (BitVec.ofNat 8 (c.base + j.val)) := by
  cases c <;> rfl

theorem regAddr_window (k : Kind) (i : Fin 32) :
    regAddr (.window k i) = some (BitVec.ofNat 8 (k.windowBase + i.val)) := by
  cases k <;> rfl

theorem regAt_window (k : Kind) (i : Fin 32) : regAt (BitVec.ofNat 8 (k.windowBase + i.val)) = .window k i := by
  cases k <;> revert i <;> decide

/-- The address behind a register's name lies in that register's range. -/
theorem regAt_of_regAddr (r : Reg) (a : Byte) (h : regAddr r = some a) : regAt a = r := by
  cases r with
  | ns i => cases h; exact regAt_nsAddr i
  | devid i => cases h; exact regAt_devidAddr i
  | url i => cases h; exact regAt_urlAddr i
  | counter c j => rw [regAddr_counter] at h; cases h; exact regAt_counter c j
  | window k i => rw [regAddr_window] at h; cases h; exact regAt_window k i
  | slen k => cases k <;> cases h <;> rfl
  | cmd | status | config | rssi | urlLen | live => cases h; rfl
  | reserved => cases h

/-- Settles O18: the two directions, over the registers and over the addresses. -/
theorem registerNamesResolve : Obligations.RegisterNamesResolve := ⟨regAt_of_regAddr, regAddr_regAt⟩

end Sys2Proof.Proofs

/-! # Encoding (30_encoding.md): the event word, and the commands and pseudo-instructions it spells -/

namespace Sys2Proof.Proofs

open Sys2Proof Sys2Proof.Machine Sys2Proof.Claims Sys2Proof.Laws

/-! ## An event word is its three fields (R90, R91) -/

@[simp] theorem addrOf_append (f : BitVec 2) (a d : Byte) : addrOf (f ++ a ++ d) = a := by
  rw [addrOf, BitVec.extractLsb'_append_eq_of_le (by decide), BitVec.extractLsb'_append_eq_right]

@[simp] theorem dataOf_append (f : BitVec 2) (a d : Byte) : dataOf (f ++ a ++ d) = d :=
  BitVec.extractLsb'_append_eq_right

theorem word_eq_append (w : EventWord) : w = formatOf w ++ addrOf w ++ dataOf w := by
  rw [formatOf, addrOf, dataOf, BitVec.extractLsb'_append_extractLsb'_eq_extractLsb' (by rfl),
    BitVec.extractLsb'_append_extractLsb'_eq_extractLsb' (by rfl), BitVec.extractLsb'_eq_self]

theorem append_eq_append_iff (f f' : BitVec 2) (a a' d d' : Byte) :
    f ++ a ++ d = f' ++ a' ++ d' ↔ f = f' ∧ a = a' ∧ d = d' := by
  constructor
  · intro h
    have hf := congrArg formatOf h
    have ha := congrArg addrOf h
    have hd := congrArg dataOf h
    rw [formatOf_append, formatOf_append] at hf
    rw [addrOf_append, addrOf_append] at ha
    rw [dataOf_append, dataOf_append] at hd
    exact ⟨hf, ha, hd⟩
  · rintro ⟨rfl, rfl, rfl⟩
    rfl

/-- A mask acts on each field by itself. -/
theorem and_eq_append (w : EventWord) (f : BitVec 2) (a d : Byte) :
    w &&& (f ++ a ++ d) = (formatOf w &&& f) ++ (addrOf w &&& a) ++ (dataOf w &&& d) := by
  conv_lhs => rw [word_eq_append w, BitVec.and_append, BitVec.and_append]

/-- The mask of a row that looks at the format alone. -/
theorem and_formatMask_eq_iff (w : EventWord) (f : BitVec 2) :
    w &&& 0x30000 = f ++ 0x00#8 ++ 0x00#8 ↔ formatOf w = f := by
  rw [show (0x30000 : EventWord) = BitVec.allOnes 2 ++ 0x00#8 ++ 0x00#8 from rfl, and_eq_append, append_eq_append_iff,
    BitVec.and_allOnes]
  simp

/-- The mask of the command rows: format and address. -/
theorem and_commandMask_eq_iff (w : EventWord) (f : BitVec 2) (a : Byte) :
    w &&& 0x3FF00 = f ++ a ++ 0x00#8 ↔ formatOf w = f ∧ addrOf w = a := by
  rw [show (0x3FF00 : EventWord) = BitVec.allOnes 2 ++ BitVec.allOnes 8 ++ 0x00#8 from rfl, and_eq_append,
    append_eq_append_iff, BitVec.and_allOnes, BitVec.and_allOnes]
  simp

theorem dataOf_and_one (w : EventWord) : dataOf w &&& 0x01#8 = (activeOf w).setWidth 8 := by
  rw [← BitVec.ofNat_eq_ofNat, ← extractLsb'_zero_one_setWidth, dataOf,
    BitVec.extractLsb'_extractLsb'_of_le (by decide)]
  rfl

/-- The mask of the tick rows: format and ACTIVE. -/
theorem and_tickMask_eq_iff (w : EventWord) (f : BitVec 2) (t : BitVec 1) :
    w &&& 0x30001 = f ++ 0x00#8 ++ t.setWidth 8 ↔ formatOf w = f ∧ activeOf w = t := by
  have hinj : (activeOf w).setWidth 8 = t.setWidth 8 ↔ activeOf w = t := by
    generalize activeOf w = r
    revert r t
    decide
  rw [show (0x30001 : EventWord) = BitVec.allOnes 2 ++ 0x00#8 ++ 0x01#8 from rfl, and_eq_append, append_eq_append_iff,
    dataOf_and_one, hinj, BitVec.and_allOnes]
  simp

/-- A field in Nat arithmetic. -/
theorem extractLsb'_eq_ofNat {n : Nat} (v : BitVec n) (start len : Nat) :
    v.extractLsb' start len = BitVec.ofNat len (v.toNat / 2 ^ start) := by
  rw [BitVec.extractLsb', Nat.shiftRight_eq_div_pow]

theorem addrOf_eq_ofNat (w : EventWord) : addrOf w = BitVec.ofNat 8 (w.toNat / 256) :=
  extractLsb'_eq_ofNat w 8 8

theorem dataOf_eq_ofNat (w : EventWord) : dataOf w = BitVec.ofNat 8 w.toNat := by
  rw [dataOf, extractLsb'_eq_ofNat, Nat.pow_zero, Nat.div_one]

theorem format_cases : ∀ f : BitVec 2, f = 0b00 ∨ f = 0b01 ∨ f = 0b10 ∨ f = 0b11 := by decide

/-! ## The decoder, one equation for each row (R92, R95) -/

theorem decode_eq_rd {w : EventWord} (hf : formatOf w = 0b00) : decode w = .rd (addrOf w) := by
  rw [decode, if_pos hf]

theorem decode_eq_decodeCommand {w : EventWord} (hf : formatOf w = 0b01) (ha : addrOf w = 0x00) :
    decode w = decodeCommand (dataOf w) := by
  rw [decode, hf, if_neg (by decide), if_pos rfl, if_pos ha]

theorem decode_eq_wr {w : EventWord} (hf : formatOf w = 0b01) (ha : addrOf w ≠ 0x00) :
    decode w = .wr (addrOf w) (dataOf w) := by
  rw [decode, hf, if_neg (by decide), if_pos rfl, if_neg ha]

theorem decode_eq_tickActive {w : EventWord} (hf : formatOf w = 0b10) (ht : activeOf w = 1) :
    decode w = .tickActive := by
  rw [decode, hf, if_neg (by decide), if_neg (by decide), if_pos rfl, if_pos ht]

theorem decode_eq_tickInactive {w : EventWord} (hf : formatOf w = 0b10) (ht : activeOf w = 0) :
    decode w = .tickInactive := by
  rw [decode, hf, if_neg (by decide), if_neg (by decide), if_pos rfl, ht, if_neg (by decide)]

theorem decode_eq_reset {w : EventWord} (hf : formatOf w = 0b11) : decode w = .reset := by
  rw [decode, hf, if_neg (by decide), if_neg (by decide), if_neg (by decide)]

theorem decodeCommand_reserved :
    ∀ {c : Byte}, (Instr.cmdReserved c).wf = true → decodeCommand c = .cmdReserved c := by decide

/-- The codes that are no command's are those above 3 (R92). -/
theorem cmdReserved_wf : ∀ {c : Byte}, 3 < c.toNat → (Instr.cmdReserved c).wf = true := by decide

theorem encode_decodeCommand (c : Byte) : encode (decodeCommand c) = commandWord c := by
  unfold decodeCommand
  split_ifs with h0 h1 h2 h3
  · rw [h0]; rfl
  · rw [h1]; rfl
  · rw [h2]; rfl
  · rw [h3]; rfl
  · rfl

/-- What a word decodes to is an event: the decoder gives no WR of CMD and no reserved command with a command's code. -/
theorem decode_wf (w : EventWord) : (decode w).wf = true := by
  rcases format_cases (formatOf w) with hf | hf | hf | hf
  · rw [decode_eq_rd hf]
    rfl
  · by_cases ha : addrOf w = 0x00
    · rw [decode_eq_decodeCommand hf ha]
      exact decodeCommand_wf _
    · rw [decode_eq_wr hf ha]
      exact decide_eq_true ha
  · rcases BitVec.eq_zero_or_eq_one (activeOf w) with ht | ht
    · rw [decode_eq_tickInactive hf ht]
      rfl
    · rw [decode_eq_tickActive hf ht]
      rfl
  · rw [decode_eq_reset hf]
    rfl

/-! ## Round trip (R104) -/

/-- Settles O3: the fields of an assembled word are its parts, so the decoder takes the row of the event's format; an
operand that the constraint of R141 or R145 shuts out is the only one that would take another row. -/
theorem decodeEncodeRoundTrip : Obligations.DecodeEncodeRoundTrip := by
  intro i hw
  cases i with
  | cmdReserved c =>
    have hf : formatOf (commandWord c) = 0b01 := formatOf_append _ _ _
    have ha : addrOf (commandWord c) = 0x00 := addrOf_append _ _ _
    have hd : dataOf (commandWord c) = c := dataOf_append _ _ _
    rw [encode, decode_eq_decodeCommand hf ha, hd, decodeCommand_reserved hw]
  | wr a d =>
    have hf : formatOf (0b01#2 ++ a ++ d) = 0b01 := formatOf_append _ _ _
    have ha : addrOf (0b01#2 ++ a ++ d) ≠ 0x00 := by simpa [Instr.wf] using hw
    rw [encode, decode_eq_wr hf ha, addrOf_append, dataOf_append]
  | rd a =>
    have hf : formatOf (0b00#2 ++ a ++ 0x00#8) = 0b00 := formatOf_append _ _ _
    rw [encode, decode_eq_rd hf, addrOf_append]
  | nop | encodeUid | encodeUrl | encodeTlm | tickActive | tickInactive | reset => rfl

/-- Settles O2: each row's mask and match fix the fields that its equation of the decoder asks for. -/
theorem decodingFollowsOpcodeTable : Obligations.DecodingFollowsOpcodeTable := by
  intro w
  rw [← addrOf_eq_ofNat, ← dataOf_eq_ofNat]
  refine ⟨by rintro rfl; rfl, by rintro rfl; rfl, by rintro rfl; rfl, by rintro rfl; rfl,
    fun h hd => ?_, fun h ha => ?_, fun h => ?_, fun h => ?_, fun h => ?_, fun h => ?_⟩
  · obtain ⟨hf, ha⟩ := (and_commandMask_eq_iff w 0b01 0x00).1 h
    have hcode : 3 < (dataOf w).toNat := by rwa [dataOf_eq_ofNat, BitVec.toNat_ofNat]
    rw [decode_eq_decodeCommand hf ha, decodeCommand_reserved (cmdReserved_wf hcode)]
  · have haddr : addrOf w ≠ 0x00 := by
      intro h0
      rw [addrOf_eq_ofNat] at h0
      exact ha (congrArg BitVec.toNat h0)
    exact decode_eq_wr ((and_formatMask_eq_iff w 0b01).1 h) haddr
  · exact decode_eq_rd ((and_formatMask_eq_iff w 0b00).1 h)
  · obtain ⟨hf, ht⟩ := (and_tickMask_eq_iff w 0b10 1).1 h
    exact decode_eq_tickActive hf ht
  · obtain ⟨hf, ht⟩ := (and_tickMask_eq_iff w 0b10 0).1 h
    exact decode_eq_tickInactive hf ht
  · exact decode_eq_reset ((and_formatMask_eq_iff w 0b11).1 h)

/-- The word that R104 gives the event of `w`, by the format of `w` (R93). -/
theorem encode_decode (w : EventWord) :
    encode (decode w) =
      if w &&& 0x30000 = 0x00000 then w &&& 0x3FF00
      else if w &&& 0x30000 = 0x10000 then w
      else if w &&& 0x30000 = 0x20000 then w &&& 0x30001
      else 0x30000 := by
  rcases format_cases (formatOf w) with hf | hf | hf | hf <;> rw [(and_formatMask_eq_iff w _).2 hf]
  · rw [if_pos (by decide), decode_eq_rd hf]
    exact ((and_commandMask_eq_iff w _ _).2 ⟨hf, rfl⟩).symm
  · rw [if_neg (by decide), if_pos (by decide)]
    have hword := word_eq_append w
    rw [hf] at hword
    by_cases ha : addrOf w = 0x00
    · rw [ha] at hword
      rw [decode_eq_decodeCommand hf ha, encode_decodeCommand]
      exact hword.symm
    · rw [decode_eq_wr hf ha]
      exact hword.symm
  · rw [if_neg (by decide), if_neg (by decide), if_pos (by decide)]
    rcases BitVec.eq_zero_or_eq_one (activeOf w) with ht | ht
    · rw [decode_eq_tickInactive hf ht]
      exact ((and_tickMask_eq_iff w _ _).2 ⟨hf, ht⟩).symm
    · rw [decode_eq_tickActive hf ht]
      exact ((and_tickMask_eq_iff w _ _).2 ⟨hf, ht⟩).symm
  · rw [if_neg (by decide), if_neg (by decide), if_neg (by decide), decode_eq_reset hf]
    rfl

/-- Settles O4: by the fields of the word; and decoding undoes the encoding of what a word decodes to. -/
theorem ignoredBitsDoNotMatter : Obligations.IgnoredBitsDoNotMatter := by
  refine ⟨encode_decode, fun w w' h => ?_⟩
  rw [← decodeEncodeRoundTrip _ (decode_wf w), h, decodeEncodeRoundTrip _ (decode_wf w')]

/-- Settles O5: `decodeNat` refuses only what is wider than a word, and every word decodes to an event. -/
theorem everyWordDecodesToAnEvent : Obligations.EveryWordDecodesToAnEvent := by
  intro n hn
  refine ⟨_, ?_, decode_wf _, rfl⟩
  rw [decodeTableWord, decodeNat, if_pos hn]

/-- Settles O1: ten words, each evaluated. -/
theorem specWordsDecode : Obligations.SpecWordsDecode := by
  unfold Obligations.SpecWordsDecode
  decide

/-! ## A step (R72) -/

theorem step_of_single (s : State) (w : EventWord) (rest : List Presented) (h : s.inputs = .single w :: rest) :
    step s = exec (decode w) { s with inputs := rest } :=
  step_of_takeEvent s _ w (takeEvent_single s w rest h)

/-- Settles O6: the word that stands next at the event input is the one decoded, and decoding undoes encoding. -/
theorem stepPerformsDecodedEvent : Obligations.StepPerformsDecodedEvent := by
  refine ⟨step_of_single, fun s i hw => ?_⟩
  rw [step_of_single _ _ s.inputs rfl, BitVec.ofNat_toNat, BitVec.setWidth_eq, decodeEncodeRoundTrip i hw]
  rfl

/-! ## The configuration shorthand (R105) -/

/-- Consecutive addresses from `base`, none of them CMD, name the bytes of one register, which `put` sets. -/
structure ByteBank (n base : Nat) (put : Vector Byte n → Efe) : Prop where
  not_cmd : ∀ i : Fin n, BitVec.ofNat 8 (base + i.val) ≠ 0x00
  store : ∀ (v : Vector Byte n) (i : Fin n) (d : Byte),
    regWrite (put v) (regAt (BitVec.ofNat 8 (base + i.val))) d = put (v.set i.val d)

theorem nsBank (e : Efe) : ByteBank 10 0x04 fun v => { e with ns := v } where
  not_cmd := by decide
  store v i d := by rw [regAt_nsAddr]; rfl

theorem devidBank (e : Efe) : ByteBank 6 0x0E fun v => { e with devid := v } where
  not_cmd := by decide
  store v i d := by rw [regAt_devidAddr]; rfl

theorem urlBank (e : Efe) : ByteBank 32 0x20 fun v => { e with url := v } where
  not_cmd := by decide
  store v i d := by rw [regAt_urlAddr]; rfl

theorem performAll_wr (a d : Byte) (is : List Instr) (s : State) (h : a ≠ 0x00) :
    performAll (.wr a d :: is) s = performAll is { s with efe := regWrite s.efe (regAt a) d } := by
  rw [performAll, exec_wr a d s h]

/-- A byte written at `k` and then more after it are one run of bytes from `k`. -/
theorem writeAt_set_succ (l : List Byte) (k : Nat) (b : Byte) (bs : List Byte) (h : k < l.length) :
    writeAt (l.set k b) (k + 1) bs = writeAt l k (b :: bs) := by
  have htake : (l.set k b).take (k + 1) = l.take k ++ [b] := by
    rw [List.take_add_one, List.take_set_of_le (Nat.le_refl k), List.getElem?_set_self h]
    rfl
  have hdrop : (l.set k b).drop (k + 1 + bs.length) = l.drop (k + (bs.length + 1)) := by
    rw [List.drop_set_of_lt (by omega), Nat.add_assoc, Nat.add_comm 1]
  rw [writeAt, writeAt, htake, hdrop, List.length_cons, List.append_assoc (l.take k)]
  rfl

/-- A run of writes inside a bank leaves the run's bytes there, and the bank's other bytes as they were. -/
theorem performAll_writesFrom {n base : Nat} {put : Vector Byte n → Efe} (hbank : ByteBank n base put) (s : State)
    (bs : List Byte) : ∀ (k : Nat) (v : Vector Byte n), k + bs.length ≤ n →
      ∃ r : Vector Byte n,
        performAll (writesFrom (base + k) bs) { s with efe := put v } = .next { s with efe := put r } ∧
        r.toList = writeAt v.toList k bs := by
  induction bs with
  | nil => exact fun k v _ => ⟨v, rfl, by simp [writeAt]⟩
  | cons b bs ih =>
    intro k v hk
    rw [List.length_cons] at hk
    have hkn : k < n := by omega
    obtain ⟨r, hrun, hr⟩ := ih (k + 1) (v.set k b) (by omega)
    refine ⟨r, ?_, ?_⟩
    · rw [writesFrom, performAll_wr _ _ _ _ (hbank.not_cmd ⟨k, hkn⟩)]
      simp only [hbank.store v ⟨k, hkn⟩ b]
      exact hrun
    · rw [hr, Vector.toList_set, writeAt_set_succ _ _ _ _ (by simpa using hkn)]

/-- A run of writes over a whole bank leaves it at the bytes given. -/
theorem performAll_writesFrom_all {n base : Nat} {put : Vector Byte n → Efe} (hbank : ByteBank n base put) (s : State)
    (v b : Vector Byte n) :
    performAll (writesFrom base b.toList) { s with efe := put v } = .next { s with efe := put b } := by
  obtain ⟨r, hrun, hr⟩ := performAll_writesFrom hbank s b.toList 0 v (by simp)
  have hrb : r = b := Vector.toList_inj.1 (by simpa [writeAt, List.drop_of_length_le] using hr)
  rwa [hrb] at hrun

/-- Settles O21: the three shorthands write NS, DEVID and URL byte by byte from the first. -/
theorem configurationShorthandStores : Obligations.ConfigurationShorthandStores := by
  intro s
  refine ⟨performAll_writesFrom_all (nsBank s.efe) s s.efe.ns,
    performAll_writesFrom_all (devidBank s.efe) s s.efe.devid, fun u hu => ?_⟩
  obtain ⟨r, hrun, hr⟩ :=
    performAll_writesFrom (urlBank { s.efe with urlLen := BitVec.ofNat 8 u.length }) s u 0 s.efe.url (by omega)
  refine ⟨r, ?_, by simpa [writeAt] using hr⟩
  rw [Pseudo.expand, performAll_wr _ _ _ _ (by decide)]
  exact hrun

/-! ## The frames as the rules lay them out (R96, R98 to R100) -/

theorem devid_reversed (v : Vector Byte 6) : v.toList.reverse = [v[5], v[4], v[3], v[2], v[1], v[0]] := by
  obtain ⟨⟨l⟩, hl⟩ := v
  match l, hl with
  | [_, _, _, _, _, _], _ => rfl

theorem frameBytes_uid (p : Params) (e : Efe) : frameBytes p 0x00 (uidPieces e).flatten = uidLayout p e := by
  rw [frameBytes, uidPieces_length]
  simp [uidPieces, uidLayout, devid_reversed]

theorem frameBytes_url (p : Params) (e : Efe) (c : Byte) (rem : List Byte) :
    frameBytes p 0x10 (urlPieces e c rem).flatten = urlLayout p e c rem := by
  rw [frameBytes, urlPieces_length, ← Nat.add_assoc]
  simp [urlPieces, urlLayout]

theorem be16_eq_field16 (v : Half) : be16 v = field16 v := by
  simp [be16, field16, extractLsb'_eq_ofNat]

theorem frameBytes_tlm (p : Params) (batt temp : Half) (adv sec : Word) :
    frameBytes p 0x20 (tlmPieces batt temp adv sec).flatten = tlmLayout p batt temp adv sec := by
  have hbe32 : ∀ v : Word, be32 v = field32 v := counterBytes_eq_field32
  rw [frameBytes, tlmPieces_length]
  simp [tlmPieces, tlmLayout, be16_eq_field16, hbe32]

/-- Settles O28: the two ends of the build. -/
theorem encodeUidBuildsFrameOrFails : Obligations.EncodeUidBuildsFrameOrFails := by
  refine ⟨rfl, fun s => ⟨?_, ?_⟩⟩
  · rw [← frameBytes_uid, frameBytes_length, uidPieces_length]
  · rcases uid_build_cases s with ⟨hcap, h⟩ | ⟨hcap, h⟩ <;> rw [exec_encodeUid, h]
    · rw [if_pos hcap, frameBytes_uid]
      rfl
    · rw [if_neg (Nat.not_le.2 hcap)]
      rfl

/-- Settles O37: the two ends of the build, both after the two samples. -/
theorem encodeTlmBuildsFrameOrFails : Obligations.EncodeTlmBuildsFrameOrFails := by
  refine ⟨rfl, fun s => ⟨?_, ?_⟩⟩
  · rw [← frameBytes_tlm, frameBytes_length, tlmPieces_length]
  · rcases tlm_build_cases s.efe.advcnt s.efe.seccnt s with ⟨hcap, h⟩ | ⟨hcap, h⟩ <;> rw [exec_encodeTlm, h]
    · rw [if_pos hcap, frameBytes_tlm]
      rfl
    · rw [if_neg (Nat.not_le.2 hcap)]
      rfl

/-! ## The compressor (R101, R102, R194, R195) -/

theorem schemeTable_eq :
    schemeTable = [(0x00, litHttpWww), (0x01, litHttpsWww), (0x02, litHttp), (0x03, litHttps)] := by decide

theorem schemeSearch_hit (c : Byte) (lit rem : List Byte) (rows : List (Byte × List Byte)) :
    schemeSearch ((c, lit) :: rows) (lit ++ rem) = some (c, rem) := by
  simp [schemeSearch]

theorem schemeSearch_skip (c : Byte) {lit u : List Byte} (rows : List (Byte × List Byte)) (h : ¬ lit <+: u) :
    schemeSearch ((c, lit) :: rows) u = schemeSearch rows u := by
  rw [schemeSearch, if_neg]
  rintro ⟨-, htake⟩
  have hsplit := List.take_append_drop lit.length u
  rw [htake] at hsplit
  exact h ⟨_, hsplit⟩

/-- The search answers with the row of the match (R194). -/
theorem schemeSearch_of_tableMatch {u : List Byte} {c : Byte} {rem : List Byte} (h : tableMatch u c rem) :
    schemeSearch schemeTable u = some (c, rem) := by
  rw [schemeTable_eq]
  rcases h with ⟨rfl, rfl⟩ | ⟨rfl, rfl⟩ | ⟨rfl, rfl, h0⟩ | ⟨rfl, rfl, h1⟩
  · exact schemeSearch_hit _ _ _ _
  · rw [schemeSearch_skip _ _ (by simp [litHttpWww, litHttpsWww]), schemeSearch_hit]
  · rw [schemeSearch_skip _ _ h0, schemeSearch_skip _ _ (by simp [litHttp, litHttpsWww]),
      schemeSearch_hit]
  · rw [schemeSearch_skip _ _ (by simp [litHttps, litHttpWww]), schemeSearch_skip _ _ h1,
      schemeSearch_skip _ _ (by simp [litHttps, litHttp]), schemeSearch_hit]

theorem schemeSearch_of_noTableMatch {u : List Byte} (h : noTableMatch u) : schemeSearch schemeTable u = none := by
  obtain ⟨h0, h1, h2, h3⟩ := h
  rw [schemeTable_eq, schemeSearch_skip _ _ h0, schemeSearch_skip _ _ h1, schemeSearch_skip _ _ h2,
    schemeSearch_skip _ _ h3, schemeSearch]

theorem urlCompress_of_some (policy : BitVec 1) {u : List Byte} {r : Byte × List Byte}
    (h : schemeSearch schemeTable u = some r) : urlCompress policy u = .ok r := by
  rw [urlCompress, h]

theorem urlCompress_passThrough {u : List Byte} (h : schemeSearch schemeTable u = none) :
    urlCompress 1 u = .ok (0x02, u) := by
  rw [urlCompress, h]
  rfl

theorem urlCompress_of_compressesTo {e : Efe} {u : List Byte} {c : Byte} {rem : List Byte}
    (h : compressesTo e u c rem) : urlCompress e.cfgNomatch u = .ok (c, rem) := by
  rcases h with hm | ⟨hpolicy, hno, rfl, rfl⟩
  · exact urlCompress_of_some _ (schemeSearch_of_tableMatch hm)
  · rw [hpolicy]
    exact urlCompress_passThrough (schemeSearch_of_noTableMatch hno)

/-- An accepted URL passes every test of R201. -/
theorem urlPayload_of_compressesTo {p : Params} {e : Efe} {c : Byte} {rem : List Byte} (h1 : 1 ≤ e.urlLen.toNat)
    (h32 : e.urlLen.toNat ≤ 32) (h : compressesTo e (urlBytes e) c rem) (hpos : 1 ≤ rem.length)
    (hmax : rem.length ≤ p.urlMaxRemainder) : urlPayload p e = .ok (c, rem) := by
  have hu : urlCompress e.cfgNomatch (rawUrl e) = .ok (c, rem) := urlCompress_of_compressesTo h
  rw [urlPayload, if_neg (by omega), if_neg (by omega), hu]
  simp only [if_neg (show ¬ rem.length = 0 by omega), if_neg (Nat.not_lt.2 hmax)]

/-- Settles O29: an accepted URL is a payload, and one that fits is committed. -/
theorem encodeUrlBuildsFrame : Obligations.EncodeUrlBuildsFrame := by
  intro s c rem h1 h32 h hpos hmax hcap
  refine ⟨?_, ?_⟩
  · rw [← frameBytes_url, frameBytes_length, urlPieces_length]
    omega
  · have hbuild := buildUrl_ok _ _ _ _ (urlPayload_of_compressesTo h1 h32 h hpos hmax)
    rw [urlPieces_length, if_pos (by omega), frameBytes_url] at hbuild
    rw [exec_encodeUrl, encodeOp_ok _ _ s s _ (congrArg (s, ·) hbuild)]
    rfl

theorem urlExpand_of_mem (c : Byte) (lit rem : List Byte) (h : (c, lit) ∈ schemeTable) :
    urlExpand c rem = some (lit ++ rem) := by
  simp only [schemeTable, List.mem_cons, List.not_mem_nil, or_false, Prod.mk.injEq] at h
  rcases h with ⟨rfl, rfl⟩ | ⟨rfl, rfl⟩ | ⟨rfl, rfl⟩ | ⟨rfl, rfl⟩ <;> rfl

/-- Settles O36: a match names a row of the table, whose literal the expansion puts back; the pass-through names the
row of "http://", which was not there. -/
theorem expansionInvertsCompression : Obligations.ExpansionInvertsCompression := by
  intro u
  refine ⟨fun c rem h => ?_, fun h => ⟨urlCompress_passThrough h, ?_⟩⟩
  · obtain ⟨lit, hmem, rfl⟩ := schemeSearch_some _ _ _ _ h
    exact urlExpand_of_mem c lit rem hmem
  · have hexp : urlExpand 0x02 u = some (litHttp ++ u) := rfl
    refine ⟨hexp, fun heq => ?_⟩
    rw [hexp] at heq
    have hlen := congrArg List.length (Option.some.inj heq)
    simp only [litHttp, List.length_append, List.length_cons] at hlen
    omega

end Sys2Proof.Proofs

/-! # The host interface (40_host_interface.md): host reads, host writes and the commands -/

namespace Sys2Proof.Proofs

open Sys2Proof Sys2Proof.Machine Sys2Proof.Claims Sys2Proof.Laws

/-! ## The words of RD, WR and the commands (R90, R92) -/

theorem decode_rdWord (a ignored : Byte) : decode (0b00#2 ++ a ++ ignored) = .rd a := by
  rw [decode_eq_rd (formatOf_append 0b00#2 _ _), addrOf_append]

theorem decode_wrWord (a d : Byte) (h : a ≠ 0x00) : decode (0b01#2 ++ a ++ d) = .wr a d := by
  rw [decode_eq_wr (formatOf_append 0b01#2 _ _) (by rwa [addrOf_append]), addrOf_append, dataOf_append]

theorem decode_commandWord (c : Byte) : decode (commandWord c) = decodeCommand c := by
  rw [commandWord, decode_eq_decodeCommand (formatOf_append 0b01#2 _ _) (addrOf_append _ 0x00#8 _), dataOf_append]

theorem decodeCommand_of_gt_three {c : Byte} (h : 3 < c.toNat) : decodeCommand c = .cmdReserved c :=
  decodeCommand_reserved (cmdReserved_wf h)

/-! ## The commands (R142, R143, R145) -/

theorem exec_wr_cmd (d : Byte) (s : State) : exec (.wr 0x00 d) s = exec (decodeCommand d) s :=
  hostCommand_eq d s

/-- Settles O16: the command word of code 0, and an event without effect. -/
theorem nopChangesNothing : Obligations.NopChangesNothing :=
  ⟨decode_commandWord 0x00, exec_nop⟩

/-- Settles O17: the codes above 3 are no command's, and the event's effect does not look at the code. -/
theorem reservedCommandRecordsInvalidInput : Obligations.ReservedCommandRecordsInvalidInput :=
  ⟨fun c hc => (decode_commandWord c).trans (decodeCommand_of_gt_three hc), fun s c => exec_cmdReserved c s⟩

/-- Settles O15: the write and its word are both the command of R92's table, whose rows the five cases are. -/
theorem commandRegisterDispatches : Obligations.CommandRegisterDispatches := by
  intro s d
  have hdispatch := exec_wr_cmd d s
  refine ⟨?_, ?_, ?_, ?_, ?_, fun hd => ?_⟩
  · exact hdispatch.trans (congrArg (exec · s) (decode_commandWord d).symm)
  · rintro rfl; exact hdispatch
  · rintro rfl; exact hdispatch
  · rintro rfl; exact hdispatch
  · rintro rfl; exact hdispatch
  · rwa [decodeCommand_of_gt_three hd] at hdispatch

/-! ## A host write, by address (R141) -/

theorem set_eq_setIfInBounds {n : Nat} (v : Vector Byte n) (i : Nat) (d : Byte) (h : i < n) :
    v.set i d h = v.setIfInBounds i d :=
  Vector.toList_inj.1 (by rw [Vector.toList_set, Vector.toList_setIfInBounds])

theorem regWrite_eq_writeR141 (e : Efe) (a d : Byte) : regWrite e (regAt a) d = writeR141 e a.toNat d := by
  unfold writeR141
  split_ifs with hconfig hrssi hns hdevid hlen hurl
  · rw [regAt_config a hconfig, regWrite, extractLsb'_eq_ofNat, Nat.pow_zero, Nat.div_one]
  · rw [regAt_rssi a hrssi, regWrite]
  · rw [regAt_ns a hns, regWrite, set_eq_setIfInBounds]
  · rw [regAt_devid a hdevid, regWrite, set_eq_setIfInBounds]
  · rw [regAt_urlLen a hlen, regWrite]
  · rw [regAt_url a hurl, regWrite, set_eq_setIfInBounds]
  · have hro : ¬ writable a.toNat := by unfold writable; omega
    exact regWrite_readOnly e _ d (Bool.eq_false_of_not_eq_true (mt (isReadWrite_regAt a).1 hro))

/-- Settles O12: the word's fields are its address and its data, and the register of an address is the one R141 names. -/
theorem writeStoresRegister : Obligations.WriteStoresRegister := by
  refine ⟨decode_wrWord, fun s a d ha => ?_⟩
  rw [exec_wr a d s ha, regWrite_eq_writeR141]

/-! ## A host read, by address (R140) -/

/-- The fields of STATUS do not overlap, so their union is their sum (R24). -/
theorem status_sum : ∀ (err src : BitVec 2) (u r l : Bool),
    (err.setWidth 8 ||| (src.setWidth 8 <<< 2) ||| ((BitVec.ofBool u).setWidth 8 <<< 4) |||
      ((BitVec.ofBool r).setWidth 8 <<< 5) ||| ((BitVec.ofBool l).setWidth 8 <<< 6) : Byte) =
    BitVec.ofNat 8 (err.toNat + 4 * src.toNat + (if u then 16 else 0) + (if r then 32 else 0) +
      (if l then 64 else 0)) := by decide

theorem statusByte_eq_ofNat (e : Efe) :
    statusByte e = BitVec.ofNat 8 (e.stErr.toNat + 4 * e.stSrc.toNat + (if e.slotUid.len = 0 then 0 else 16)
      + (if e.slotUrl.len = 0 then 0 else 32) + (if e.slotTlm.len = 0 then 0 else 64)) := by
  simp only [statusByte, validBit_eq, status_sum, decide_eq_true_eq, ne_eq, ite_not]

theorem toList_getD {n : Nat} (v : Vector Byte n) (i : Fin n) : v.toList.getD i.val 0x00 = v[i.val] := by
  rw [List.getD_eq_getElem _ _ (by simp), Vector.getElem_toList]

/-- The slots in a list are found by the number of their kind (R17). -/
theorem getD_map_slots {β : Type} (e : Efe) (f : Slot → β) (k : Kind) (x : β) :
    ([e.slotUid, e.slotUrl, e.slotTlm].map f).getD (kindCode k).toNat x = f (e.slot k) := by
  cases k <;> rfl

theorem windowBase_eq (k : Kind) : k.windowBase = 0x50 + 32 * (kindCode k).toNat := by
  cases k <;> rfl

section
variable (p : Params) (e : Efe)

theorem readR140_ns (i : Fin 10) : readR140 p e (0x04 + i.val) = e.ns[i.val] := by
  simp (disch := omega) only [readR140, if_pos, if_neg, Nat.add_sub_cancel_left, toList_getD]

theorem readR140_devid (i : Fin 6) : readR140 p e (0x0E + i.val) = e.devid[i.val] := by
  simp (disch := omega) only [readR140, if_pos, if_neg, Nat.add_sub_cancel_left, toList_getD]

theorem readR140_url (i : Fin 32) : readR140 p e (0x20 + i.val) = e.url[i.val] := by
  simp (disch := omega) only [readR140, if_pos, if_neg, Nat.add_sub_cancel_left, toList_getD]

/-- A counter's byte `j` is its digit `3 - j` to the base 256. -/
theorem readR140_counter (c : Counter) (j : Fin 4) :
    readR140 p e (c.base + j.val) = counterByte (e.counter c) j.val := by
  have hshift : (256 : Nat) ^ (3 - j.val) = 2 ^ (24 - 8 * j.val) := by
    revert j; decide
  have hbase : 0x40 ≤ c.base ∧ c.base ≤ 0x48 := by cases c <;> decide
  have hbyte : (c.base + j.val - 0x40) % 4 = j.val := by
    cases c <;> revert j <;> decide
  have hgroup : [e.iter, e.advcnt, e.seccnt].getD ((c.base + j.val - 0x40) / 4) 0 = e.counter c := by
    cases c <;> fin_cases j <;> rfl
  simp (disch := omega) only [readR140, if_pos, if_neg]
  rw [hgroup, hbyte, hshift, counterByte, extractLsb'_eq_ofNat]

/-- The window of a kind is 32 bytes from its base, and the bases are 32 apart. -/
theorem readR140_window (k : Kind) (i : Fin 32) :
    readR140 p e (k.windowBase + i.val) = windowByte p (e.slot k) i.val := by
  have hk : (kindCode k).toNat ≤ 2 := by cases k <;> decide
  have hwindow : (0x50 + 32 * (kindCode k).toNat + i.val - 0x50) / 32 = (kindCode k).toNat := by omega
  have hbyte : (0x50 + 32 * (kindCode k).toNat + i.val - 0x50) % 32 = i.val := by omega
  rw [windowBase_eq]
  simp (disch := omega) only [readR140, if_pos, if_neg, hwindow, hbyte]
  rw [getD_map_slots, windowByte]

theorem readR140_ofNat {n : Nat} (h : n < 256) : readR140 p e (BitVec.ofNat 8 n).toNat = readR140 p e n := by
  rw [BitVec.toNat_ofNat, Nat.mod_eq_of_lt h]

/-- R140 reads at a register's address what the register holds. -/
theorem readR140_of_regAddr {r : Reg} {a : Byte} (h : regAddr r = some a) : readR140 p e a.toNat = regRead p e r := by
  cases r with
  | cmd | rssi | urlLen | live => cases h; rfl
  | status => cases h; exact (statusByte_eq_ofNat e).symm
  | config => cases h; exact BitVec.ofNat_toNat ..
  | slen k => cases k <;> cases h <;> rfl
  | ns i => cases h; exact (readR140_ofNat p e (by omega)).trans (readR140_ns p e i)
  | devid i => cases h; exact (readR140_ofNat p e (by omega)).trans (readR140_devid p e i)
  | url i => cases h; exact (readR140_ofNat p e (by omega)).trans (readR140_url p e i)
  | counter c j =>
    have hbase : c.base ≤ 0x48 := by cases c <;> decide
    rw [regAddr_counter] at h
    cases h
    exact (readR140_ofNat p e (by omega)).trans (readR140_counter p e c j)
  | window k i =>
    have hbase : k.windowBase ≤ 0x90 := by cases k <;> decide
    rw [regAddr_window] at h
    cases h
    exact (readR140_ofNat p e (by omega)).trans (readR140_window p e k i)
  | reserved => cases h

theorem reserved_ranges_of_regAt :
    ∀ a : Byte, regAt a = .reserved → (0x15 ≤ a.toNat ∧ a.toNat ≤ 0x1F) ∨ 0xB0 ≤ a.toNat := by decide

theorem readR140_reserved {a : Byte} (h : regAt a = .reserved) : readR140 p e a.toNat = 0x00 := by
  rcases reserved_ranges_of_regAt a h with hlow | hhigh
  · simp (disch := omega) only [readR140, if_pos, if_neg]
  · simp (disch := omega) only [readR140, if_neg]

end

theorem readByte_eq_readR140 (s : State) (a : Byte) : readByte s a = readR140 s.params s.efe a.toNat := by
  by_cases h : regAt a = .reserved
  · rw [readByte_reserved s a h, readR140_reserved _ _ h]
  · rw [readR140_of_regAddr _ _ (regAddr_regAt a h), readByte]

/-- Settles O11: the word's address field is the address, and at each register's address R140 reads that register. -/
theorem readReturnsRegisterByte : Obligations.ReadReturnsRegisterByte := by
  refine ⟨decode_rdWord, fun s a => ?_⟩
  rw [exec_rd, readByte_eq_readR140]

end Sys2Proof.Proofs

/-! # The encoder primitives (41_encoder_primitives.md): the appends, the two ends of a build, and what is sent -/

namespace Sys2Proof.Proofs

open Sys2Proof Sys2Proof.Machine Sys2Proof.Claims Sys2Proof.Safety Sys2Proof.Laws

/-! ## Only whole frames are sent (R41, R103, R171) -/

/-- Every adv_set put out from `s` to `t` carries a whole frame. -/
def SendsWholeFrames (s t : State) : Prop :=
  ∃ new : List PortEvent, t.trace = s.trace ++ new ∧
    ∀ (bytes : List Byte) (n : Byte), .advSet bytes n ∈ new → WholeFrame s.params bytes n

theorem SendsNothing.sendsWholeFrames {s t : State} (h : SendsNothing s t) : SendsWholeFrames s t := by
  obtain ⟨new, ht, hn⟩ := h
  exact ⟨new, ht, fun bytes n hmem => absurd rfl (List.countP_eq_zero.1 hn _ hmem)⟩

/-- What is sent after a part that sends nothing is all that is sent. -/
theorem SendsNothing.trans_sendsWholeFrames {s m t : State} (h : SendsNothing s m) (hp : m.params = s.params)
    (hmt : SendsWholeFrames m t) : SendsWholeFrames s t := by
  obtain ⟨quiet, hm, hquiet⟩ := h
  obtain ⟨new, ht, hwhole⟩ := hmt
  refine ⟨quiet ++ new, by rw [ht, hm, List.append_assoc], fun bytes n hmem => ?_⟩
  rcases List.mem_append.1 hmem with hmem | hmem
  · exact absurd rfl (List.countP_eq_zero.1 hquiet _ hmem)
  · exact hp ▸ hwhole bytes n hmem

/-- Every length R42 allows a slot that holds a frame is above the twelve bytes of the header. -/
theorem legalLen_gt_header {p : Params} {k : Kind} {n : Nat} (h : legalLen p k n) (hn : n ≠ 0) : 12 < n := by
  cases k <;> simp only [legalLen] at h <;> omega

/-- The valid bytes of a slot that holds a frame are one whole frame. -/
theorem wholeFrame_of_slotInv {p : Params} {k : Kind} {sl : Slot} (h : SlotInv p k sl) (hl : sl.len ≠ 0) :
    WholeFrame p (sl.buf.take sl.len.toNat) sl.len := by
  have hcap : sl.len.toNat ≤ sl.buf.length := h.capacity ▸ h.len_le
  have hheader : 12 < sl.len.toNat := legalLen_gt_header h.legal_len (by simpa [← BitVec.toNat_inj] using hl)
  have hlength : (sl.buf.take sl.len.toNat).length = sl.len.toNat := List.length_take_of_le hcap
  have hbyte (i : Nat) (hi : i < 12) : (sl.buf.take sl.len.toNat)[i]? = sl.buf[i]? :=
    List.getElem?_take_of_lt (by omega)
  exact {
    length := hlength
    at_least_header := by rwa [hlength]
    fits := by rw [hlength]; exact h.len_le
    header_low := by rw [List.take_take, Nat.min_eq_left (by omega)]; exact h.header_low hl
    length_byte := by rw [hbyte 7 (by decide)]; exact h.length_byte hl
    header_high := by
      rw [List.drop_take, List.take_take, Nat.min_eq_left (by omega)]
      exact h.header_high hl
    frame_type := by
      rw [hbyte 11 (by decide), h.frame_type hl]
      cases k <;> simp }

theorem push_sendsWholeFrames (k : Kind) (m : State) (hm : Inv m) : SendsWholeFrames m (push k m) := by
  obtain ⟨-, hslot, -⟩ := (inv_iff m).1 hm
  rcases push_cases k m with ⟨hl, h⟩ | ⟨-, h⟩ <;> rw [h]
  · refine ⟨_, rfl, fun bytes n hmem => ?_⟩
    obtain ⟨rfl, rfl⟩ : bytes = _ ∧ n = _ := by simpa using hmem
    exact wholeFrame_of_slotInv (hslot k) hl
  · exact (sendsNothing_of_trace_eq rfl).sendsWholeFrames

/-- An active tick is its count and rebuild, and then a push or nothing (R230). -/
theorem tickActive_push (s : State) :
    ∃ m, BeforePush s m ∧ ((∃ k, after .tickActive s = push k m) ∨ after .tickActive s = m) := by
  rcases dispatch_cases (countTick s) with ⟨h9, h⟩ | ⟨h9, -, h⟩ | ⟨h9, -, -, h⟩ | ⟨h9, -, -, h⟩
  · exact ⟨_, .rebuilt _ h9 (tlm_buildEffect _ _ _), .inl ⟨.tlm, h⟩⟩
  · exact ⟨_, .counted h9, .inl ⟨.url, h⟩⟩
  · exact ⟨_, .counted h9, .inl ⟨.uid, h⟩⟩
  · exact ⟨_, .counted h9, .inr h⟩

theorem tickActive_sendsWholeFrames (s : State) (hs : Inv s) : SendsWholeFrames s (after .tickActive s) := by
  obtain ⟨m, hm, ⟨k, h⟩ | h⟩ := tickActive_push s <;> rw [h]
  · exact hm.sendsNothing.trans_sendsWholeFrames hm.params (push_sendsWholeFrames k m (hm.inv hs))
  · exact hm.sendsNothing.sendsWholeFrames

/-- Only an active tick sends (R238). -/
theorem sendsNothing_after (i : Instr) (s : State) (hi : i ≠ .tickActive) : SendsNothing s (after i s) := by
  cases i with
  | encodeUid => exact (uid_buildEffect s).trace
  | encodeUrl => exact (url_buildEffect s).trace
  | encodeTlm => exact (tlm_buildEffect _ _ s).trace
  | cmdReserved c => exact ⟨[.logErr 3 3], rfl, rfl⟩
  | rd a => exact ⟨[.readData (readByte s a)], rfl, rfl⟩
  | tickActive => exact absurd rfl hi
  | nop | wr _ _ | tickInactive | reset => exact sendsNothing_of_trace_eq rfl

theorem after_sendsWholeFrames (i : Instr) (s : State) (hs : Inv s) : SendsWholeFrames s (after i s) := by
  by_cases hi : i = .tickActive
  · subst hi
    exact tickActive_sendsWholeFrames s hs
  · exact (sendsNothing_after i s hi).sendsWholeFrames

/-- A step is idle, or performs an event on the state it took the event from. -/
theorem step_cases {s t : State} (h : step s = .next t) :
    t = s ∨ ∃ (w : EventWord) (m : State) (i : Instr), takeEvent s = some (w, m) ∧ t = after i m := by
  rcases htake : takeEvent s with _ | ⟨w, m⟩
  · rw [step, htake] at h
    cases h
    exact .inl rfl
  · obtain ⟨i, hi, -⟩ := exec_performs (decode w)
    rw [step_of_takeEvent s m w htake, hi m] at h
    cases h
    exact .inr ⟨w, m, i, rfl, rfl⟩

/-- Settles O60: only a push sends, and the slot it sends meets R38 to R42. -/
theorem onlyWholeFramesAreSent : Obligations.OnlyWholeFramesAreSent := by
  intro s t hs hstep
  rcases step_cases hstep with rfl | ⟨w, m, i, htake, rfl⟩
  · exact (sendsNothing_of_trace_eq rfl).sendsWholeFrames
  · obtain ⟨hp, he, -, -, htrace⟩ := takeEvent_frame s m w htake
    have hm : Inv m := by
      rw [inv_iff, hp, he]
      exact (inv_iff s).1 hs
    exact (sendsNothing_of_trace_eq htrace).trans_sendsWholeFrames hp (after_sendsWholeFrames i m hm)

/-! ## The appends (R161 to R166) -/

theorem writeAt_getElem?_written {l : List Byte} {i : Nat} {bs : List Byte} (h : i ≤ l.length) {j : Nat}
    (hj : j < bs.length) : (writeAt l i bs)[i + j]? = bs[j]? := by
  have htake : (l.take i).length = i := List.length_take_of_le h
  rw [writeAt, List.append_assoc, List.getElem?_append_right (by omega), htake, Nat.add_sub_cancel_left,
    List.getElem?_append_left hj]

theorem writeAt_getElem?_other {l : List Byte} {i : Nat} {bs : List Byte} (h : i ≤ l.length) {j : Nat}
    (hj : j < i ∨ i + bs.length ≤ j) : (writeAt l i bs)[j]? = l[j]? := by
  have htake : (l.take i).length = i := List.length_take_of_le h
  rcases hj with hbefore | hafter
  · rw [writeAt, List.append_assoc, List.getElem?_append_left (by omega), List.getElem?_take_of_lt hbefore]
  · have hfront : (l.take i ++ bs).length = i + bs.length := by rw [List.length_append, htake]
    rw [writeAt, List.getElem?_append_right (by omega), hfront, List.getElem?_drop, Nat.add_sub_cancel' hafter]

/-- Settles O23: the new buffer is the old one with the bytes written at the cursor. -/
theorem appendFitsWholeOrFails : Obligations.AppendFitsWholeOrFails := by
  intro p bs b hb
  refine ⟨appendBytes_overflows p bs b, fun hfit => ?_⟩
  have hcur : b.cur ≤ b.scr.length := by omega
  exact ⟨_, appendBytes_fits p bs b hfit, rfl, (writeAt_length _ _ _ (by omega)).trans hb,
    fun _ => writeAt_getElem?_written hcur, fun _ => writeAt_getElem?_other hcur⟩

theorem appendBytes_nil (p : Params) (b : Scratch) (h : b.cur ≤ p.slotCap) : appendBytes p [] b = .ok b := by
  rw [appendBytes_fits p [] b h]
  simp [writeAt]

/-- The first byte and then the rest, with either failing as the whole does (R162, R163). -/
theorem appendBytes_cons (p : Params) (v : Byte) (bs : List Byte) (b : Scratch) (hb : b.scr.length = p.slotCap) :
    appendBytes p (v :: bs) b = appendU8 p v b >>= appendBytes p bs := by
  by_cases hv : b.cur + 1 ≤ p.slotCap
  · have hset : appendU8 p v b = .ok { scr := b.scr.set b.cur v, cur := b.cur + 1 } := if_neg (by omega)
    have hsum : b.cur + 1 + bs.length = b.cur + (v :: bs).length := by rw [List.length_cons]; omega
    rw [hset]
    simp only [bind, Except.bind, appendBytes, hsum, writeAt_set_succ b.scr b.cur v bs (by omega)]
  · have hfull : appendU8 p v b = .error .bufferTooSmall := if_pos (by omega)
    rw [hfull, appendBytes_overflows p (v :: bs) b (by rw [List.length_cons]; omega)]
    rfl

/-- What append_u8 keeps: the buffer's size, and the cursor inside it. -/
theorem appendU8_bounds {p : Params} {v : Byte} {b b' : Scratch} (hb : b.scr.length = p.slotCap)
    (h : appendU8 p v b = .ok b') : b'.scr.length = p.slotCap ∧ b'.cur ≤ p.slotCap := by
  unfold appendU8 at h
  split at h
  · cases h
  · cases h
    exact ⟨by rw [List.length_set, hb], Nat.le_of_not_gt ‹_›⟩

/-- Settles O24, by induction on the bytes. -/
theorem appendBytesIsRepeatedAppendU8 : Obligations.AppendBytesIsRepeatedAppendU8 := by
  intro p bs
  induction bs with
  | nil => exact fun b _ hcur => appendBytes_nil p b hcur
  | cons v bs ih =>
    intro b hb _
    rw [appendBytes_cons p v bs b hb, List.foldlM_cons]
    refine bind_congr_ok _ _ _ fun b' hb' => ?_
    obtain ⟨hlen, hcur⟩ := appendU8_bounds hb hb'
    exact ih b' hlen hcur

/-- Settles O25: the bytes of be16 and be32 are the value's big-endian fields. -/
theorem multiByteAppendsBigEndian : Obligations.MultiByteAppendsBigEndian := by
  refine fun p b => ⟨fun v => ?_, fun v => ?_⟩
  · rw [appendU16be, be16_eq_field16]
  · rw [appendU32be, ← counterBytes_eq_field32]
    rfl

/-- Settles O26: the twelve bytes are written whole over the zeros of scr_begin, or not at all. -/
theorem headerPackerWritesTwelveBytes : Obligations.HeaderPackerWritesTwelveBytes := by
  refine fun p ft => ⟨fun hsmall => ?_, fun hfit => ?_⟩
  · rw [encodeHeader_begin, if_neg (by omega)]
  · rw [encodeHeader_begin, if_pos hfit, written, headerBytes_length]
    rfl

/-! ## The two ends of a build (R168 to R170) -/

/-- Writing a slot and STATUS leaves the host-writable registers. -/
theorem withConfig_setSlot_setStatus (e : Efe) (k : Kind) (sl : Slot) (c r : BitVec 2) :
    withConfig e ((e.setSlot k sl).setStatus c r) = e := by
  cases k <;> rfl

/-- Either end of a build writes SLOT[k] and STATUS over what the body left, and nothing else of R22. -/
theorem encodeOp_efe {k : Kind} {body : State → State × Except ErrKind Scratch} {s s' : State}
    {r : Except ErrKind Scratch} (h : body s = (s', r)) :
    ∃ sl c, (encodeOp k body s).efe = (s'.efe.setSlot k sl).setStatus c (kindCode k) := by
  cases r with
  | error e => exact ⟨_, _, by rw [encodeOp_error k body s s' e h, fail_efe]⟩
  | ok b => exact ⟨_, _, by rw [encodeOp_ok k body s s' b h, commit_efe]⟩

/-- Settles O27: the build is its commit or its fail, and the frame is that of its two writes. -/
theorem buildEndsInCommitOrFail : Obligations.BuildEndsInCommitOrFail := by
  intro k body s s' r hbody
  obtain ⟨sl, c, hefe⟩ := encodeOp_efe (k := k) hbody
  refine ⟨fun b hr => ?_, fun e hr => ?_, fun j hj => ?_, ?_, ?_⟩
  · subst hr
    rw [encodeOp_ok k body s s' b hbody, commit_efe, slot_setStatus, slot_setSlot_same]
    exact ⟨rfl, rfl, rfl, commit_trace ..⟩
  · subst hr
    rw [encodeOp_error k body s s' e hbody, fail_efe, slot_setStatus, slot_setSlot_same]
    exact ⟨rfl, rfl, rfl, fail_trace ..⟩
  · rw [hefe, slot_setStatus, slot_setSlot_other _ _ _ _ hj]
  · rw [hefe, withConfig_setSlot_setStatus]
  · simp [hefe]

end Sys2Proof.Proofs

/-! # Frame encoding (42_frame_encode.md): the URLs that ENCODE_URL does not accept, and the compressor's search -/

namespace Sys2Proof.Proofs

open Sys2Proof Sys2Proof.Machine Sys2Proof.Claims Sys2Proof.Laws

/-! ## The search and the table match say the same (R194) -/

/-- The rows in the table's order: the first literal that begins `u` is the match. -/
theorem tableMatch_or_noTableMatch (u : List Byte) : (∃ c rem, tableMatch u c rem) ∨ noTableMatch u := by
  by_cases h0 : litHttpWww <+: u
  · obtain ⟨rem, hu⟩ := h0
    exact .inl ⟨0x00, rem, .inl ⟨rfl, hu.symm⟩⟩
  by_cases h1 : litHttpsWww <+: u
  · obtain ⟨rem, hu⟩ := h1
    exact .inl ⟨0x01, rem, .inr (.inl ⟨rfl, hu.symm⟩)⟩
  by_cases h2 : litHttp <+: u
  · obtain ⟨rem, hu⟩ := h2
    exact .inl ⟨0x02, rem, .inr (.inr (.inl ⟨rfl, hu.symm, h0⟩))⟩
  by_cases h3 : litHttps <+: u
  · obtain ⟨rem, hu⟩ := h3
    exact .inl ⟨0x03, rem, .inr (.inr (.inr ⟨rfl, hu.symm, h1⟩))⟩
  exact .inr ⟨h0, h1, h2, h3⟩

theorem schemeSearch_eq_some_iff (u : List Byte) (c : Byte) (rem : List Byte) :
    schemeSearch schemeTable u = some (c, rem) ↔ tableMatch u c rem := by
  refine ⟨fun h => ?_, schemeSearch_of_tableMatch⟩
  rcases tableMatch_or_noTableMatch u with ⟨c', rem', hm⟩ | hno
  · have hsame := (schemeSearch_of_tableMatch hm).symm.trans h
    cases hsame
    exact hm
  · cases (schemeSearch_of_noTableMatch hno).symm.trans h

theorem urlCompress_failClosed {u : List Byte} (h : schemeSearch schemeTable u = none) :
    urlCompress 0 u = .error .invalidUrl := by
  rw [urlCompress, h]
  rfl

/-- Settles O35: the search and the table match agree, and the policy decides where neither finds a row. -/
theorem compressorTakesFirstMatch : Obligations.CompressorTakesFirstMatch := fun u =>
  ⟨fun _ _ policy hm => urlCompress_of_some policy (schemeSearch_of_tableMatch hm),
    fun c rem => (schemeSearch_eq_some_iff u c rem).1,
    fun hno => ⟨urlCompress_failClosed (schemeSearch_of_noTableMatch hno),
      urlCompress_passThrough (schemeSearch_of_noTableMatch hno)⟩⟩

/-- The URLs that a match leaves nothing of are the table's literals (R199): "http://" does not begin with
"http://www.", nor "https://" with "https://www.". -/
theorem tableMatch_nil_iff (u : List Byte) (c : Byte) : tableMatch u c [] ↔ (c, u) ∈ schemeTable := by
  have hhttp : (u = litHttp ∧ ¬ litHttpWww <+: u) ↔ u = litHttp := and_iff_left_of_imp (by rintro rfl; decide)
  have hhttps : (u = litHttps ∧ ¬ litHttpsWww <+: u) ↔ u = litHttps := and_iff_left_of_imp (by rintro rfl; decide)
  simp only [schemeTable_eq, tableMatch, List.append_nil, hhttp, hhttps, List.mem_cons, List.not_mem_nil, or_false,
    Prod.mk.injEq]

theorem exists_tableMatch_nil {u : List Byte} (h : u ∈ schemeTable.map Prod.snd) : ∃ c, tableMatch u c [] := by
  obtain ⟨⟨c, lit⟩, hrow, rfl⟩ := List.mem_map.1 h
  exact ⟨c, (tableMatch_nil_iff lit c).2 hrow⟩

/-! ## The tests of ENCODE_URL that fail, in the order of R201 -/

theorem urlPayload_tooLong {p : Params} {e : Efe} (h : 32 < e.urlLen.toNat) :
    urlPayload p e = .error .invalidInput := by
  rw [urlPayload, if_pos h]

theorem urlPayload_empty {p : Params} {e : Efe} (h : e.urlLen = 0) : urlPayload p e = .error .invalidUrl := by
  rw [urlPayload, h]
  rfl

theorem urlPayload_compress_error {p : Params} {e : Efe} {k : ErrKind} (h1 : 1 ≤ e.urlLen.toNat)
    (h32 : e.urlLen.toNat ≤ 32) (h : urlCompress e.cfgNomatch (urlBytes e) = .error k) :
    urlPayload p e = .error k := by
  have hu : urlCompress e.cfgNomatch (rawUrl e) = .error k := h
  rw [urlPayload, if_neg (by omega), if_neg (by omega), hu]

/-- A remainder that is empty (R199) or longer than URL_MAX_REMAINDER (R200). -/
theorem urlPayload_bad_remainder {p : Params} {e : Efe} {c : Byte} {rem : List Byte} (h1 : 1 ≤ e.urlLen.toNat)
    (h32 : e.urlLen.toNat ≤ 32) (h : compressesTo e (urlBytes e) c rem)
    (hbad : rem.length = 0 ∨ p.urlMaxRemainder < rem.length) : urlPayload p e = .error .invalidUrl := by
  have hu : urlCompress e.cfgNomatch (rawUrl e) = .ok (c, rem) := urlCompress_of_compressesTo h
  rw [urlPayload, if_neg (by omega), if_neg (by omega), hu]
  by_cases hempty : rem.length = 0
  · simp only [if_pos hempty]
  · simp only [if_neg hempty, if_pos (hbad.resolve_left hempty)]

/-- An accepted URL can still be too long for the capacity (R203). -/
theorem buildUrl_overflows {p : Params} {e : Efe} {c : Byte} {rem : List Byte} (h : urlPayload p e = .ok (c, rem))
    (hcap : p.slotCap < 14 + rem.length) : buildUrl p e = .error .bufferTooSmall := by
  rw [buildUrl_ok p e c rem h, urlPieces_length, if_neg (by omega)]

/-! ## ENCODE_URL fails with its build (R169, R196) -/

theorem exec_encodeUrl_of_buildUrl_error {s : State} {k : ErrKind} (h : buildUrl s.params s.efe = .error k) :
    exec .encodeUrl s = .next (urlFailed s (errCode k)) := by
  rw [exec_encodeUrl, encodeOp_error _ _ s s k (congrArg (s, ·) h)]
  rfl

theorem exec_encodeUrl_of_urlPayload_error {s : State} {k : ErrKind} (h : urlPayload s.params s.efe = .error k) :
    exec .encodeUrl s = .next (urlFailed s (errCode k)) :=
  exec_encodeUrl_of_buildUrl_error (buildUrl_error _ _ k h)

/-- Settles O30: the first two tests of R201. -/
theorem urlLengthOutOfRangeFails : Obligations.UrlLengthOutOfRangeFails :=
  ⟨fun _ h => exec_encodeUrl_of_urlPayload_error (urlPayload_tooLong h),
    fun _ h => exec_encodeUrl_of_urlPayload_error (urlPayload_empty h)⟩

/-- Settles O31: the compressor itself fails. -/
theorem unmatchedUrlFailsClosed : Obligations.UnmatchedUrlFailsClosed := by
  intro s h1 h32 hpolicy hno
  refine exec_encodeUrl_of_urlPayload_error (k := .invalidUrl) (urlPayload_compress_error h1 h32 ?_)
  rw [hpolicy]
  exact urlCompress_failClosed (schemeSearch_of_noTableMatch hno)

/-- Settles O32: a whole literal is a match that leaves nothing, and the search finds exactly the matches. -/
theorem schemeAloneIsInvalid : Obligations.SchemeAloneIsInvalid := by
  refine ⟨fun s h1 h32 hmem => ?_, fun u c => ?_⟩
  · obtain ⟨c, hm⟩ := exists_tableMatch_nil (u := urlBytes s.efe) (by rw [schemeTable_eq]; exact hmem)
    exact exec_encodeUrl_of_urlPayload_error (urlPayload_bad_remainder h1 h32 (.inl hm) (.inl rfl))
  · rw [schemeSearch_eq_some_iff, tableMatch_nil_iff, schemeTable_eq]

/-- Settles O33: the remainder test comes before any append. -/
theorem longRemainderIsInvalid : Obligations.LongRemainderIsInvalid := fun _ _ _ h1 h32 h hlong =>
  exec_encodeUrl_of_urlPayload_error (urlPayload_bad_remainder h1 h32 h (.inr hlong))

/-- Settles O34: every test is passed, and the appends overflow. -/
theorem urlFrameTooLargeFails : Obligations.UrlFrameTooLargeFails := fun _ _ _ h1 h32 h hpos hmax hcap =>
  exec_encodeUrl_of_buildUrl_error (buildUrl_overflows (urlPayload_of_compressesTo h1 h32 h hpos hmax) hcap)

end Sys2Proof.Proofs

/-! # Rotation (43_rotation.md): the four ways an active tick goes, the schedule, and what one event puts out -/

namespace Sys2Proof.Proofs

open Sys2Proof Sys2Proof.Machine Sys2Proof.Claims Sys2Proof.Laws

/-! ## A tick that selects no TLM entry (R231, R234 to R237) -/

/-- push as one state (R236). -/
theorem push_eq_ite (k : Kind) (s : State) : push k s = if (s.efe.slot k).len ≠ 0 then pushed k s else s := rfl

theorem dispatch_of_entry {s : State} {r : RotationEntry} (h : selectEntry rotationTable s.efe.iter = some r) :
    dispatch s = push r.kind (if r.rebuild then encodeOp .tlm (buildTlm s.efe.advcnt s.efe.seccnt) s else s) := by
  rw [dispatch, h]

theorem dispatch_of_none {s : State} (h : selectEntry rotationTable s.efe.iter = none) : dispatch s = s := by
  rw [dispatch, h]

/-- An entry without a rebuild pushes its slot as it stands, right after the count (R234, R235, R239). -/
theorem exec_tickActive_of_entry {s : State} {d : Nat} {k : Kind}
    (h : selectEntry rotationTable (s.efe.iter + 1) = some ⟨d, k, false⟩) :
    exec .tickActive s =
      .next (if ((countTick s).efe.slot k).len ≠ 0 then pushed k (countTick s) else countTick s) := by
  rw [exec_tickActive, dispatch_of_entry (s := countTick s) h, ← push_eq_ite]
  rfl

/-- Settles O41: 5 divides the new ITER, and 9, which stands first in the table, does not. -/
theorem urlTickPushesSlot : Obligations.UrlTickPushesSlot := fun _ h9 h5 =>
  exec_tickActive_of_entry (selectEntry_url _ h9 h5)

/-- Settles O42: 3 divides the new ITER, and neither 9 nor 5, which stand before it, does. -/
theorem uidTickPushesSlot : Obligations.UidTickPushesSlot := fun _ h9 h5 h3 =>
  exec_tickActive_of_entry (selectEntry_uid _ h9 h5 h3)

/-- Settles O43: without an entry the count is all there is. -/
theorem tickWithoutEntryOnlyCounts : Obligations.TickWithoutEntryOnlyCounts := fun s h9 h5 h3 =>
  congrArg Host.Outcome.next (dispatch_of_none (s := countTick s) (selectEntry_none _ h9 h5 h3))

/-- Settles O44: format 0b10 with ACTIVE 0, whatever stands between them. -/
theorem inactiveTickChangesNothing : Obligations.InactiveTickChangesNothing := by
  refine ⟨fun ignored => ?_, exec_tickInactive⟩
  have hformat : formatOf (0b10#2 ++ ignored ++ 0#1) = 0b10 := by
    rw [formatOf, BitVec.extractLsb'_append_eq_of_le (by decide)]
    exact BitVec.extractLsb'_append_eq_left
  have hactive : activeOf (0b10#2 ++ ignored ++ 0#1) = 0 := BitVec.extractLsb'_append_eq_right
  exact decode_eq_tickInactive hformat hactive

/-! ## A tick that selects the TLM entry (R233, R239 to R241, R243) -/

/-- The TLM entry builds as ENCODE_TLM does, on the state that has counted, and then pushes (R223, R233, R239). -/
theorem exec_tickActive_of_tlmEntry {s : State} (h9 : (s.efe.iter + 1).toNat % 9 = 0) :
    exec .tickActive s = .next (push .tlm (after .encodeTlm (countTick s))) := by
  rw [exec_tickActive, dispatch_of_entry (s := countTick s) (selectEntry_tlm _ h9)]
  rfl

theorem after_encodeTlm_fits {s : State} (hcap : 27 ≤ s.params.slotCap) :
    after .encodeTlm s =
      { sampled s with
        efe := { s.efe with
          slotTlm := filled s.params (tlmLayout s.params (battAnswer s) (tempAnswer s) s.efe.advcnt s.efe.seccnt)
          stErr := 0
          stSrc := 2 } } := by
  obtain ⟨-, hbuild⟩ := encodeTlmBuildsFrameOrFails.2 s
  rw [if_pos hcap] at hbuild
  exact Host.Outcome.next.inj hbuild

theorem after_encodeTlm_overflows {s : State} (hcap : s.params.slotCap < 27) :
    after .encodeTlm s =
      { sampled s with
        efe := { s.efe with slotTlm := emptied s.params, stErr := 1, stSrc := 2 }
        trace := (sampled s).trace ++ [.logErr 1 2] } := by
  obtain ⟨-, hbuild⟩ := encodeTlmBuildsFrameOrFails.2 s
  rw [if_neg (Nat.not_le.2 hcap)] at hbuild
  exact Host.Outcome.next.inj hbuild

theorem tlmLayout_length (p : Params) (batt temp : Half) (adv sec : Word) :
    (tlmLayout p batt temp adv sec).length = 27 := by
  rw [← frameBytes_tlm, frameBytes_length, tlmPieces_length]

/-- A push of a slot that holds exactly a frame sends that frame (R236). -/
theorem push_of_filled {k : Kind} {s : State} {p : Params} {frame : List Byte} {n : Nat}
    (hslot : s.efe.slot k = filled p frame) (hframe : frame.length = n) (hpos : 0 < n) (hlt : n < 256) :
    push k s =
      { s with efe := { s.efe with live := liveByte k, advcnt := s.efe.advcnt + 1 },
               trace := s.trace ++ [.advSet frame (BitVec.ofNat 8 n)] } := by
  subst hframe
  have hlen : (filled p frame).len.toNat = frame.length := Nat.mod_eq_of_lt hlt
  have hvalid : (filled p frame).len ≠ 0 := fun h0 => hpos.ne (by rw [← hlen, h0]; rfl)
  have hbytes : (filled p frame).buf.take (filled p frame).len.toNat = frame := by
    rw [hlen, filled, List.take_left]
  rw [push_valid k s (by rwa [hslot]), hslot, hbytes]
  rfl

/-- Settles O39: the rebuild, with the counted SECCNT, fills the slot, so the push sends that frame and counts it. -/
theorem tlmTickRebuildsAndPushes : Obligations.TlmTickRebuildsAndPushes := by
  intro s h9 hcap
  have hbuilt := after_encodeTlm_fits (s := countTick s) hcap
  have hslot : (after .encodeTlm (countTick s)).efe.slot .tlm = filled s.params _ :=
    congrArg (·.efe.slotTlm) hbuilt
  have hpush := push_of_filled hslot (tlmLayout_length _ _ _ _ _) (by decide) (by decide)
  rw [exec_tickActive_of_tlmEntry h9, hpush, hbuilt]
  rfl

/-- Settles O40: the failed rebuild leaves an empty slot, so the push does nothing. -/
theorem tlmTickFailureKeepsRadio : Obligations.TlmTickFailureKeepsRadio := by
  intro s h9 hcap
  have hfailed := after_encodeTlm_overflows (s := countTick s) hcap
  rw [exec_tickActive_of_tlmEntry h9, push_empty .tlm _ (by rw [hfailed]; rfl), hfailed]
  rfl

/-- Settles O46: the wrapped ITER is 0, a multiple of 9. -/
theorem countersWrapIntoTlmEntry : Obligations.CountersWrapIntoTlmEntry := by
  intro s hiter hsec hcap
  have hiter0 : s.efe.iter + 1 = 0 := by rw [hiter]; rfl
  have hsec0 : s.efe.seccnt + 1 = 0 := by rw [hsec]; rfl
  have htick := tlmTickRebuildsAndPushes s (by rw [hiter0]; rfl) hcap
  rw [hiter0, hsec0] at htick
  exact ⟨_, htick, rfl, rfl, rfl, rfl, rfl, rfl, fun hadv => by rw [hadv]; rfl⟩

/-! ## The schedule (R232, R242) -/

/-- The kind that ROTATION_TABLE gives a tick of the number `n`. -/
def scheduled (n : Nat) : Option Kind :=
  if n % 9 = 0 then some .tlm else if n % 5 = 0 then some .url else if n % 3 = 0 then some .uid else none

theorem kindAt_eq_scheduled (n : Word) : kindAt n = scheduled n.toNat := by
  rw [kindAt, selectEntry_eq, scheduled]
  split_ifs <;> rfl

theorem kindAt_ofNat {n : Nat} (h : n < 2 ^ 32) : kindAt (BitVec.ofNat 32 n) = scheduled n := by
  rw [kindAt_eq_scheduled, BitVec.toNat_ofNat, Nat.mod_eq_of_lt h]

/-- 45 is a multiple of every divisor in the table. -/
theorem scheduled_periodic : Function.Periodic scheduled 45 := by
  intro n
  have h9 : (n + 45) % 9 = n % 9 := Nat.add_mul_mod_self_left n 9 5
  have h5 : (n + 45) % 5 = n % 5 := Nat.add_mul_mod_self_left n 5 9
  have h3 : (n + 45) % 3 = n % 3 := Nat.add_mul_mod_self_left n 3 15
  rw [scheduled, scheduled, h9, h5, h3]

/-- Any 45 consecutive ticks hold each kind as often as the first 45 do. -/
theorem count_scheduled (first : Nat) (k : Option Kind) :
    ((List.range' first 45).map scheduled).count k = Nat.count (scheduled · = k) 45 := by
  have hperiodic : Function.Periodic (scheduled · = k) 45 := scheduled_periodic.comp (· = k)
  have hico : Multiset.Ico first (first + 45) = List.range' first 45 :=
    congrArg (fun n => (List.range' first n : Multiset Nat)) (Nat.add_sub_cancel_left ..)
  rw [← Nat.filter_multiset_Ico_card_eq_of_periodic first 45 _ hperiodic, hico, Multiset.filter_coe, Multiset.coe_card,
    List.count, List.countP_map, List.countP_eq_length_filter]
  simp only [Function.comp_def, beq_eq_decide]

/-- Values of ITER that do not wrap follow the schedule. -/
theorem map_kindAt_range {first n : Nat} (h : first + n ≤ 2 ^ 32) :
    ((List.range n).map fun j => kindAt (BitVec.ofNat 32 (first + j))) = (List.range' first n).map scheduled := by
  rw [List.range'_eq_map_range, List.map_map]
  refine List.map_congr_left fun j hj => kindAt_ofNat ?_
  have hj := List.mem_range.1 hj
  omega

/-- Settles O45: the period is 45, and one period is counted out. -/
theorem scheduleOverFortyFiveTicks : Obligations.ScheduleOverFortyFiveTicks := by
  refine ⟨fun n => ?_, fun first h => ?_, ?_⟩
  · rw [kindAt_ofNat (by omega), scheduled_periodic.map_mod_nat, kindAt_eq_scheduled]
  · simp only [map_kindAt_range h, count_scheduled]
    decide
  · decide

/-! ## What one event puts out (R238) -/

theorem decodeCommand_ne_tickActive (d : Byte) : decodeCommand d ≠ .tickActive := by revert d; decide

/-- The battery samples on the trace. -/
def battSamples (s : State) : Nat := s.trace.countP isBattSample

/-- A build samples where its body does; neither of its ends does. -/
theorem battSamples_encodeOp (k : Kind) (body : State → State × Except ErrKind Scratch) (s : State) :
    battSamples (encodeOp k body s) = battSamples (body s).1 := by
  rcases hb : body s with ⟨m, e | b⟩
  · rw [encodeOp_error k body s m e hb]
    simp [battSamples, isBattSample]
  · rw [encodeOp_ok k body s m b hb]
    rfl

theorem battSamples_encodeOp_tlm (adv sec : Word) (s : State) :
    battSamples (encodeOp .tlm (buildTlm adv sec) s) = battSamples s + 1 := by
  rw [battSamples_encodeOp, buildTlm_eq, battSamples, List.countP_append]
  rfl

theorem battSamples_push (k : Kind) (s : State) : battSamples (push k s) = battSamples s := by
  rcases push_cases k s with ⟨-, h⟩ | ⟨-, h⟩ <;> rw [h]
  simp [battSamples, isBattSample]

theorem battSamples_dispatch_le (s : State) : battSamples (dispatch s) ≤ battSamples s + 1 := by
  rcases dispatch_cases s with ⟨-, h⟩ | ⟨-, -, h⟩ | ⟨-, -, -, h⟩ | ⟨-, -, -, h⟩ <;> rw [h]
  · rw [battSamples_push, battSamples_encodeOp_tlm]
  · rw [battSamples_push]
    omega
  · rw [battSamples_push]
    omega
  · omega

theorem battSamples_after_le (i : Instr) (s : State) : battSamples (after i s) ≤ battSamples s + 1 := by
  cases i with
  | encodeUid => exact (battSamples_encodeOp _ _ _).trans_le (Nat.le_succ _)
  | encodeUrl => exact (battSamples_encodeOp _ _ _).trans_le (Nat.le_succ _)
  | encodeTlm => exact (battSamples_encodeOp_tlm _ _ _).le
  | cmdReserved _ => simp [after, battSamples, isBattSample]
  | rd _ => simp [after, battSamples, isBattSample]
  | tickActive => exact battSamples_dispatch_le (countTick s)
  | nop | wr _ _ | tickInactive | reset => exact Nat.le_succ _

/-- An active tick sends at most once: before its push it sends nothing. -/
theorem tickActive_sends_le_one (s : State) :
    ∃ new : List PortEvent, (after .tickActive s).trace = s.trace ++ new ∧ new.countP isAdvSet ≤ 1 := by
  obtain ⟨m, hm, hend⟩ := tickActive_cases s
  obtain ⟨new, ht, hn⟩ := hm.sendsNothing
  generalize after .tickActive s = t at hend ⊢
  cases hend with
  | unsent => exact ⟨new, ht, by omega⟩
  | sent k hk => exact ⟨_, by rw [pushed, ht, List.append_assoc], by simp [hn, isAdvSet]⟩

/-- What an event puts out holds at most one adv_set, and none but for an active tick. -/
theorem after_sends (i : Instr) (s : State) :
    ∃ new : List PortEvent, (after i s).trace = s.trace ++ new ∧ new.countP isAdvSet ≤ 1 ∧
      (i ≠ .tickActive → new.countP isAdvSet = 0) := by
  by_cases hi : i = .tickActive
  · subst hi
    obtain ⟨new, ht, hn⟩ := tickActive_sends_le_one s
    exact ⟨new, ht, hn, fun h => absurd rfl h⟩
  · obtain ⟨new, ht, hn⟩ := sendsNothing_after i s hi
    exact ⟨new, ht, by omega, fun _ => hn⟩

/-- Settles O47: only the push at the end of an active tick sends, and an event builds at most one TLM frame. -/
theorem atMostOnePushPerEvent : Obligations.AtMostOnePushPerEvent := by
  intro i s t h
  obtain ⟨j, hj, hij⟩ := exec_performs i
  rw [hj s] at h
  cases h
  obtain ⟨new, ht, hone, hnone⟩ := after_sends j s
  refine ⟨new, ht, ?_, hone, fun hi => hnone ?_, ?_⟩
  · have hle := battSamples_after_le j s
    rw [battSamples, battSamples, ht, List.countP_append] at hle
    omega
  · rcases hij with rfl | ⟨d, -, rfl⟩
    · exact hi
    · exact decodeCommand_ne_tickActive d
  · rintro rfl
    obtain rfl : j = .tickInactive := by simpa using hij
    exact List.self_eq_append_right.1 ht

end Sys2Proof.Proofs

/-! # Errors and completion (60_exceptions.md): every event completes, what it counts, and the errors it logs -/

namespace Sys2Proof.Proofs

open Sys2Proof Sys2Proof.Machine Sys2Proof.Claims Sys2Proof.Laws

/-! ## Every event completes (R266) -/

theorem exec_completes (i : Instr) (s : State) : ∃ t : State, exec i s = .next t := by
  obtain ⟨j, hj, -⟩ := exec_performs i
  exact ⟨_, hj s⟩

theorem step_completes (s : State) : ∃ t : State, step s = .next t := by
  rcases htake : takeEvent s with _ | ⟨w, m⟩
  · exact ⟨s, by rw [step, htake]⟩
  · rw [step_of_takeEvent s m w htake]
    exact exec_completes (decode w) m

/-- Settles O9: each event has its next state, a step without an event is idle, and `Fault` has no constructor. -/
theorem everyEventCompletes : Obligations.EveryEventCompletes :=
  ⟨exec_completes, step_completes, nofun⟩

/-! ## The counters (R44, R277) -/

/-- A build changes no counter (R223). -/
theorem BuildEffect.counter {k : Kind} {s t : State} (h : BuildEffect k s t) (c : Counter) :
    t.efe.counter c = s.efe.counter c := by
  obtain ⟨sl, code, he, -⟩ := h.efe
  rw [he]
  cases c <;> simp

/-- Up to its push, an active tick has counted itself and nothing else (R230, R240). -/
theorem BeforePush.counter {s m : State} (h : BeforePush s m) (c : Counter) :
    m.efe.counter c = (countTick s).efe.counter c := by
  cases h with
  | rebuilt m h9 hb => exact hb.counter c
  | counted h9 => rfl

theorem counter_after (i : Instr) (s : State) (c : Counter) (ht : i ≠ .tickActive) (hr : i ≠ .reset) :
    (after i s).efe.counter c = s.efe.counter c := by
  cases i with
  | encodeUid => exact (uid_buildEffect s).counter c
  | encodeUrl => exact (url_buildEffect s).counter c
  | encodeTlm => exact (tlm_buildEffect _ _ s).counter c
  | wr a d =>
    obtain ⟨-, -, hiter, hadv, hsec, -⟩ := regWrite_frame s.efe (regAt a) d
    cases c
    · exact hiter
    · exact hadv
    · exact hsec
  | tickActive => exact absurd rfl ht
  | reset => exact absurd rfl hr
  | nop | rd _ | tickInactive => rfl
  | cmdReserved _ => cases c <;> rfl

/-- From `s` to `t`, ITER and SECCNT advanced by `n`, and ADVCNT by the number of adv_set put out. -/
def Counts (n : Word) (s t : State) : Prop :=
  ∃ new : List PortEvent, t.trace = s.trace ++ new ∧ t.efe.iter = s.efe.iter + n ∧ t.efe.seccnt = s.efe.seccnt + n ∧
    t.efe.advcnt = s.efe.advcnt + BitVec.ofNat 32 (new.countP isAdvSet)

theorem SendsNothing.counts {s t : State} {n : Word} (h : SendsNothing s t) (hiter : t.efe.iter = s.efe.iter + n)
    (hsec : t.efe.seccnt = s.efe.seccnt + n) (hadv : t.efe.advcnt = s.efe.advcnt) : Counts n s t := by
  obtain ⟨new, htrace, hnone⟩ := h
  exact ⟨new, htrace, hiter, hsec, by simp [hadv, hnone]⟩

/-- The push that hands a frame to the radio counts it, and touches neither ITER nor SECCNT (R236). -/
theorem Counts.trans_pushed {s m : State} {n : Word} (h : Counts n s m) (k : Kind) : Counts n s (pushed k m) := by
  obtain ⟨new, htrace, hiter, hsec, hadv⟩ := h
  refine ⟨_, by rw [pushed, htrace, List.append_assoc], hiter, hsec, ?_⟩
  simp [pushed, hadv, isAdvSet, BitVec.ofNat_add, BitVec.add_assoc]

theorem counts_tickActive (s : State) : Counts 1 s (after .tickActive s) := by
  obtain ⟨m, hm, hend⟩ := tickActive_cases s
  have hbefore : Counts 1 s m := hm.sendsNothing.counts (hm.counter .iter) (hm.counter .seccnt) (hm.counter .advcnt)
  generalize after .tickActive s = t at hend ⊢
  cases hend with
  | unsent => exact hbefore
  | sent k hk => exact hbefore.trans_pushed k

theorem counts_after (i : Instr) (s : State) (hr : i ≠ .reset) :
    Counts (if i = .tickActive then 1 else 0) s (after i s) := by
  by_cases hi : i = .tickActive
  · subst hi
    exact counts_tickActive s
  · rw [if_neg hi]
    have hkeep (c : Counter) := counter_after i s c hi hr
    exact (sendsNothing_after i s hi).counts ((hkeep .iter).trans (BitVec.add_zero _).symm)
      ((hkeep .seccnt).trans (BitVec.add_zero _).symm) (hkeep .advcnt)

/-- The event performed is an active tick, or RESET, exactly where the event given is: no command is either (R92). -/
theorem exec_performs_tickActive_reset (i : Instr) :
    ∃ j : Instr, (∀ s, exec i s = .next (after j s)) ∧ (j = .tickActive ↔ i = .tickActive) ∧
      (j = .reset ↔ i = .reset) := by
  obtain ⟨j, hj, rfl | ⟨d, rfl, rfl⟩⟩ := exec_performs i
  · exact ⟨j, hj, Iff.rfl, Iff.rfl⟩
  · exact ⟨decodeCommand d, hj, iff_of_false (decodeCommand_ne_tickActive d) nofun,
      iff_of_false (decodeCommand_ne_reset d) nofun⟩

/-- Settles O48: only the count of an active tick and the push that ends it touch a counter, and RESET zeroes them. -/
theorem countersCountTicksAndPushes : Obligations.CountersCountTicksAndPushes := by
  intro i s t h
  obtain ⟨j, hj, htick, hreset⟩ := exec_performs_tickActive_reset i
  rw [hj s] at h
  cases h
  simp only [ne_eq, ← htick, ← hreset]
  refine ⟨?_, fun hr => ?_⟩
  · rintro rfl
    exact ⟨rfl, rfl, rfl⟩
  · obtain ⟨new, htrace, hiter, hsec, hadv⟩ := counts_after j s hr
    exact ⟨new, htrace, hiter, hsec, hadv, fun ht => counter_after j s .advcnt ht hr⟩

/-! ## The errors an event logs (R169, R261, R264) -/

/-- The parameters under which some frame can exceed SLOT_CAP (R261): 31 bytes hold a UID frame, a TLM frame, and a URL
frame with a remainder of 17. -/
def FramesCanOverflow (p : Params) : Prop := p.slotCap < 31 ∨ 17 < p.urlMaxRemainder

/-- What an event that found ERR `before` and left the state `e` says of errors in what it put out: nothing, or the one
error it recorded. -/
inductive ErrorReport (p : Params) (before : BitVec 2) (e : Efe) (new : List PortEvent) : Prop where
  | silent (hlog : new.filter isLogErr = []) (herr : e.stErr = before ∨ e.stErr = 0)
  | logged (hlog : new.filter isLogErr = [.logErr e.stErr e.stSrc]) (herr : e.stErr ≠ 0)
      (hsmall : e.stErr = 1 → FramesCanOverflow p)

/-- From `s` to `t`, the errors put out are those recorded. -/
def ReportsErrors (s t : State) : Prop :=
  ∃ new : List PortEvent, t.trace = s.trace ++ new ∧ ErrorReport s.params s.efe.stErr t.efe new

theorem errCode_ne_zero (e : ErrKind) : errCode e ≠ 0 := by cases e <;> decide

theorem errCode_eq_one_iff (e : ErrKind) : errCode e = 1 ↔ e = .bufferTooSmall := by cases e <;> decide

/-- Where nothing went out and ERR stays, there is nothing to report. -/
theorem reportsErrors_of_unchanged {s t : State} (htrace : t.trace = s.trace) (herr : t.efe.stErr = s.efe.stErr) :
    ReportsErrors s t :=
  ⟨[], by rw [htrace, List.append_nil], .silent rfl (.inl herr)⟩

/-- A failed build, from a state `m` in which at most the sensors were sampled, logs the error it records (R169). -/
theorem reportsErrors_fail (k : Kind) (e : ErrKind) {s m : State} {new : List PortEvent}
    (htrace : m.trace = s.trace ++ new) (hnew : new.filter isLogErr = [])
    (hsmall : e = .bufferTooSmall → FramesCanOverflow s.params) : ReportsErrors s (fail k e m) :=
  ⟨new ++ [.logErr (errCode e) (kindCode k)], by rw [fail_trace, htrace, List.append_assoc],
    .logged (by rw [List.filter_append, hnew]; rfl) (errCode_ne_zero e) fun h => hsmall ((errCode_eq_one_iff e).1 h)⟩

/-- A committed build, from such a state, clears ERR and logs nothing (R168). -/
theorem reportsErrors_commit (k : Kind) (b : Scratch) {s m : State} {new : List PortEvent}
    (htrace : m.trace = s.trace ++ new) (hnew : new.filter isLogErr = []) : ReportsErrors s (commit k b m) :=
  ⟨new, htrace, .silent hnew (.inr rfl)⟩

theorem reportsErrors_encodeUid (s : State) : ReportsErrors s (after .encodeUid s) := by
  have hnil : s.trace = s.trace ++ [] := (List.append_nil _).symm
  rcases uid_build_cases s with ⟨-, h⟩ | ⟨hcap, h⟩ <;> rw [after, h]
  · exact reportsErrors_commit .uid _ hnil rfl
  · exact reportsErrors_fail .uid _ hnil rfl fun _ => .inl hcap

theorem reportsErrors_encodeUrl (s : State) : ReportsErrors s (after .encodeUrl s) := by
  have hnil : s.trace = s.trace ++ [] := (List.append_nil _).symm
  rcases url_build_cases s with ⟨c, rem, -, -, -, -, h⟩ | ⟨c, rem, -, hmax, hcap, h⟩ | ⟨e, -, he, h⟩ <;> rw [after, h]
  · exact reportsErrors_commit .url _ hnil rfl
  · exact reportsErrors_fail .url _ hnil rfl fun _ => by rw [FramesCanOverflow]; omega
  · exact reportsErrors_fail .url _ hnil rfl fun hsmall => absurd hsmall he

theorem reportsErrors_buildTlm (adv sec : Word) (s : State) : ReportsErrors s (encodeOp .tlm (buildTlm adv sec) s) := by
  rcases tlm_build_cases adv sec s with ⟨-, h⟩ | ⟨hcap, h⟩ <;> rw [h]
  · exact reportsErrors_commit .tlm _ (afterSampling_trace s) rfl
  · exact reportsErrors_fail .tlm _ (afterSampling_trace s) rfl fun _ => .inl (by omega)

/-- A push touches neither field and puts out no error, so it reports what came before it (R236). -/
theorem ReportsErrors.push {s m : State} (h : ReportsErrors s m) (k : Kind) : ReportsErrors s (push k m) := by
  rcases push_cases k m with ⟨-, hpush⟩ | ⟨-, hpush⟩ <;> rw [hpush]
  · obtain ⟨new, htrace, hreport⟩ := h
    refine ⟨_, by rw [htrace, List.append_assoc], ?_⟩
    cases hreport with
    | silent hlog herr => exact .silent (by rw [List.filter_append, hlog]; rfl) herr
    | logged hlog herr hsmall => exact .logged (by rw [List.filter_append, hlog]; rfl) herr hsmall
  · exact h

theorem reportsErrors_dispatch (s : State) : ReportsErrors s (dispatch s) := by
  have hquiet : ReportsErrors s s := reportsErrors_of_unchanged rfl rfl
  rcases dispatch_cases s with ⟨-, h⟩ | ⟨-, -, h⟩ | ⟨-, -, -, h⟩ | ⟨-, -, -, h⟩ <;> rw [h]
  · exact (reportsErrors_buildTlm _ _ s).push .tlm
  · exact hquiet.push .url
  · exact hquiet.push .uid
  · exact hquiet

theorem reportsErrors_after (i : Instr) (s : State) : ReportsErrors s (after i s) := by
  cases i with
  | encodeUid => exact reportsErrors_encodeUid s
  | encodeUrl => exact reportsErrors_encodeUrl s
  | encodeTlm => exact reportsErrors_buildTlm _ _ s
  | cmdReserved c =>
    exact ⟨[.logErr 3 3], rfl,
      .logged rfl (errCode_ne_zero .invalidInput) fun h => nomatch (errCode_eq_one_iff .invalidInput).1 h⟩
  | wr a d =>
    obtain ⟨herr, -⟩ := regWrite_frame s.efe (regAt a) d
    exact reportsErrors_of_unchanged rfl herr
  | rd a => exact ⟨[.readData (readByte s a)], rfl, .silent rfl (.inl rfl)⟩
  | tickActive => exact reportsErrors_dispatch (countTick s)
  | reset => exact ⟨[], (List.append_nil _).symm, .silent rfl (.inr rfl)⟩
  | nop | tickInactive => exact reportsErrors_of_unchanged rfl rfl

theorem reportsErrors_exec {i : Instr} {s t : State} (h : exec i s = .next t) : ReportsErrors s t := by
  obtain ⟨j, hj, -⟩ := exec_performs i
  rw [hj s] at h
  cases h
  exact reportsErrors_after j s

/-- A reported error is the recorded one. -/
theorem ErrorReport.of_mem {p : Params} {before c k : BitVec 2} {e : Efe} {new : List PortEvent}
    (h : ErrorReport p before e new) (hmem : .logErr c k ∈ new) :
    e.stErr = c ∧ e.stSrc = k ∧ c ≠ 0 ∧ (c = 1 → FramesCanOverflow p) := by
  have hlogged : .logErr c k ∈ new.filter isLogErr := List.mem_filter.2 ⟨hmem, rfl⟩
  cases h with
  | silent hlog _ => simp [hlog] at hlogged
  | logged hlog herr hsmall =>
    obtain ⟨rfl, rfl⟩ : c = e.stErr ∧ k = e.stSrc := by simpa [hlog] using hlogged
    exact ⟨rfl, rfl, herr, hsmall⟩

/-- A new error is reported. -/
theorem ErrorReport.mem_of_new {p : Params} {before : BitVec 2} {e : Efe} {new : List PortEvent}
    (h : ErrorReport p before e new) (hne : e.stErr ≠ before) (h0 : e.stErr ≠ 0) : .logErr e.stErr e.stSrc ∈ new := by
  cases h with
  | silent _ herr => exact (herr.elim hne h0).elim
  | logged hlog _ _ => exact List.mem_of_mem_filter (hlog ▸ List.mem_singleton_self _)

theorem ErrorReport.countP_le_one {p : Params} {before : BitVec 2} {e : Efe} {new : List PortEvent}
    (h : ErrorReport p before e new) : new.countP isLogErr ≤ 1 := by
  rw [List.countP_eq_length_filter]
  cases h with
  | silent hlog _ => simp [hlog]
  | logged hlog _ _ => simp [hlog]

/-- Settles O54: a silent event leaves ERR or clears it, and any other logs just the error it records. -/
theorem loggedErrorIsRecorded : Obligations.LoggedErrorIsRecorded := by
  intro i s t h
  obtain ⟨new, htrace, hreport⟩ := reportsErrors_exec h
  refine ⟨new, htrace, hreport.countP_le_one, fun c k hmem => ?_, hreport.mem_of_new⟩
  obtain ⟨herr, hsrc, h0, -⟩ := hreport.of_mem hmem
  exact ⟨herr, hsrc, h0⟩

/-- Settles O55: only a build that overflows logs BufferTooSmall, and under these parameters every frame fits. -/
theorem bufferTooSmallNeedsOtherParameters : Obligations.BufferTooSmallNeedsOtherParameters := by
  intro i s t hcap hmax h
  obtain ⟨new, htrace, hreport⟩ := reportsErrors_exec h
  refine ⟨new, htrace, fun k hmem => ?_⟩
  obtain ⟨-, -, -, hsmall⟩ := hreport.of_mem hmem
  have hoverflow := hsmall rfl
  rw [FramesCanOverflow] at hoverflow
  omega

end Sys2Proof.Proofs

/-! # Reset and hazards (70_reset_and_hazards.md): RESET, ticks between host reads, and late configuration -/

namespace Sys2Proof.Proofs

open Sys2Proof Sys2Proof.Machine Sys2Proof.Claims Sys2Proof.Laws

/-! ## RESET (R290, R47) -/

/-- Settles O56: format 0b11 alone makes the word RESET, and the reset values are those of R47. -/
theorem resetSetsEveryElement : Obligations.ResetSetsEveryElement := by
  refine ⟨fun ignored => ?_, exec_reset⟩
  have hformat : formatOf (0b11#2 ++ ignored) = 0b11 := BitVec.extractLsb'_append_eq_left
  exact decode_eq_reset hformat

/-- An emptied slot shows zeros in its window, within SLOT_CAP and beyond it (R36, R47). -/
theorem windowByte_empty (p : Params) (i : Nat) : windowByte p (Slot.empty p) i = 0x00 := by
  rw [windowByte, empty_buf]
  split
  next h => rw [List.getD_eq_getElem?_getD, List.getElem?_replicate_of_lt h, Option.getD_some]
  next => rfl

theorem slot_reset (p : Params) (k : Kind) : (Efe.reset p).slot k = Slot.empty p := by cases k <;> rfl

/-- ST_SRC and LIVE are the only elements whose reset value is not zero (R47). -/
theorem regRead_reset (p : Params) (r : Reg) (hstatus : r ≠ .status) (hlive : r ≠ .live) :
    regRead p (Efe.reset p) r = 0x00 := by
  cases r with
  | status => exact absurd rfl hstatus
  | live => exact absurd rfl hlive
  | ns i | devid i | url i => exact Vector.getElem_replicate ..
  | counter c j =>
    have hzero : (Efe.reset p).counter c = 0#32 := by cases c <;> rfl
    rw [regRead, hzero]
    exact BitVec.extractLsb'_zero
  | slen k => rw [regRead, slot_reset, empty_len]
  | window k i => rw [regRead, slot_reset, windowByte_empty]
  | cmd | config | rssi | urlLen | reserved => rfl

/-- No error, SRC "no frame kind", and no VALID bit (R24, R47). -/
theorem statusByte_reset (p : Params) : statusByte (Efe.reset p) = 0x0C := by
  have hvalid : validBit (Slot.empty p) = 0 := if_neg (not_not_intro rfl)
  simp only [statusByte, Efe.reset, hvalid]
  decide

theorem regAt_eq_live (a : Byte) (h : regAt a = .live) : a = 0x4F := by
  simpa [h, regAddr, eq_comm] using regAddr_regAt a

/-- Settles O57: every register but STATUS and LIVE reads its zero, SLEN_UID among them. -/
theorem readsRightAfterReset : Obligations.ReadsRightAfterReset := by
  intro s t h
  rw [exec_reset] at h
  cases h
  have hzero (a : Byte) (hstatus : a ≠ 0x01) (hlive : a ≠ 0x4F) :
      readByte { s with efe := Efe.reset s.params } a = 0x00 :=
    regRead_reset s.params (regAt a) (mt (regAt_eq_status a) hstatus) (mt (regAt_eq_live a) hlive)
  exact ⟨statusByte_reset s.params, hzero 0x4C (by decide) (by decide), rfl, hzero⟩

/-! ## A tick between two reads of a counter (R298) -/

theorem exec_rd_of_readByte {s : State} {a v : Byte} (h : readByte s a = v) :
    exec (.rd a) s = .next (emit (.readData v) s) := by
  rw [← h]
  rfl

/-- 0x100 is a multiple of no divisor in the table, so the tick that reaches it only counts (R237). -/
theorem exec_tickActive_of_iter {s : State} (h : s.efe.iter = 0xFF) : exec .tickActive s = .next (countTick s) := by
  apply tickWithoutEntryOnlyCounts <;> rw [h] <;> decide

/-- Settles O22: the carry of the tick goes into the byte that is not yet read. -/
theorem counterReadsCanTear : Obligations.CounterReadsCanTear := by
  intro s hiter
  have hlow : readByte s 0x43 = 0xFF :=
    (readByte_counter s .iter 3 (by decide)).trans (by rw [counter_iter, hiter]; decide)
  have hnext (m : State) (hm : m.efe.iter = 0xFF + 1) : readByte m 0x42 = 0x01 :=
    (readByte_counter m .iter 2 (by decide)).trans (by rw [counter_iter, hm]; decide)
  have hcount : (countTick (emit (.readData 0xFF) s)).efe.iter = 0xFF + 1 := congrArg (· + 1) hiter
  refine ⟨_, _, _, exec_rd_of_readByte hlow, exec_tickActive_of_iter hiter, exec_rd_of_readByte (hnext _ hcount), ?_⟩
  rw [emit_trace, countTick_trace, emit_trace, List.append_assoc, List.singleton_append]

/-! ## Ticks and TLM builds read no configuration (R296, R301) -/

/-- `s` with the host-writable registers of `c`. -/
def reconfigured (c : Efe) (s : State) : State := { s with efe := withConfig s.efe c }

/-- A build whose body does not read the configuration carries it along (R168, R169). -/
theorem encodeOp_reconfigured (k : Kind) (body : State → State × Except ErrKind Scratch) (c : Efe) (s : State)
    (h : body (reconfigured c s) = (reconfigured c (body s).1, (body s).2)) :
    encodeOp k body (reconfigured c s) = reconfigured c (encodeOp k body s) := by
  unfold encodeOp
  rw [h]
  rcases body s with ⟨m, e | b⟩ <;> cases k <;> rfl

/-- A TLM frame is made of the samples and two counters (R215). -/
theorem encodeOp_tlm_reconfigured (adv sec : Word) (c : Efe) (s : State) :
    encodeOp .tlm (buildTlm adv sec) (reconfigured c s) = reconfigured c (encodeOp .tlm (buildTlm adv sec) s) :=
  encodeOp_reconfigured _ _ c s (by rw [buildTlm_eq, buildTlm_eq]; rfl)

/-- A push reads a slot and ADVCNT (R236). -/
theorem push_reconfigured (k : Kind) (c : Efe) (s : State) :
    push k (reconfigured c s) = reconfigured c (push k s) := by
  have hslot : (reconfigured c s).efe.slot k = s.efe.slot k := by cases k <;> rfl
  rcases push_cases k s with ⟨hlen, h⟩ | ⟨hlen, h⟩
  · rw [h, push_valid k _ (by rwa [hslot]), hslot]
    rfl
  · rw [h, push_empty k _ (by rwa [hslot])]

/-- The entry is chosen by ITER alone (R232), and neither its rebuild nor its push reads the configuration. -/
theorem dispatch_reconfigured (c : Efe) (s : State) : dispatch (reconfigured c s) = reconfigured c (dispatch s) := by
  cases hentry : selectEntry rotationTable s.efe.iter with
  | none => rw [dispatch_of_none hentry, dispatch_of_none (s := reconfigured c s) hentry]
  | some r =>
    rw [dispatch_of_entry hentry, dispatch_of_entry (s := reconfigured c s) hentry, ← push_reconfigured]
    split
    next => exact congrArg (push r.kind) (encodeOp_tlm_reconfigured _ _ c s)
    next => rfl

/-- Settles O52: both events carry the configuration along unread. -/
theorem ticksIgnoreConfiguration : Obligations.TicksIgnoreConfiguration := by
  rintro i (rfl | rfl) s c
  · exact ⟨_, exec_tickActive s, congrArg Host.Outcome.next (dispatch_reconfigured c (countTick s))⟩
  · exact ⟨_, exec_encodeTlm s, congrArg Host.Outcome.next (encodeOp_tlm_reconfigured _ _ c s)⟩

end Sys2Proof.Proofs

/-! # The ports (20_memory.md section 4, 10_state.md section 8): what every event leaves of them -/

namespace Sys2Proof.Proofs

open Sys2Proof Sys2Proof.Machine Sys2Proof.Laws

/-! ## Samples come from the heads of the sensor ports' lists (R222) -/

/-- From `s` to `t`, each sensor port lost nothing but answers at the head of its list. -/
def PortsAdvance (s t : State) : Prop := t.battPort <:+ s.battPort ∧ t.tempPort <:+ s.tempPort

theorem PortsAdvance.refl (s : State) : PortsAdvance s s := ⟨List.suffix_rfl, List.suffix_rfl⟩

/-- A build takes from the ports what its body takes, whichever way it ends. -/
theorem PortsAdvance.encodeOp {k : Kind} {body : State → State × Except ErrKind Scratch} {s : State}
    (h : PortsAdvance s (body s).1) : PortsAdvance s (encodeOp k body s) := by
  rcases hb : body s with ⟨m, e | b⟩ <;> rw [hb] at h
  · rwa [encodeOp_error k body s m e hb]
  · rwa [encodeOp_ok k body s m b hb]

/-- A TLM build takes the first listed answer of each port, where there is one (R222). -/
theorem portsAdvance_encodeOp_tlm (adv sec : Word) (s : State) :
    PortsAdvance s (encodeOp .tlm (buildTlm adv sec) s) := by
  refine PortsAdvance.encodeOp ?_
  rw [buildTlm_eq]
  exact ⟨List.tail_suffix _, List.tail_suffix _⟩

/-- A push leaves the sensor ports as they are. -/
theorem PortsAdvance.push {s m : State} (h : PortsAdvance s m) (k : Kind) : PortsAdvance s (push k m) := by
  rcases push_cases k m with ⟨-, hpush⟩ | ⟨-, hpush⟩ <;> rwa [hpush]

theorem portsAdvance_dispatch (s : State) : PortsAdvance s (dispatch s) := by
  rcases dispatch_cases s with ⟨-, h⟩ | ⟨-, -, h⟩ | ⟨-, -, -, h⟩ | ⟨-, -, -, h⟩ <;> rw [h]
  · exact (portsAdvance_encodeOp_tlm _ _ s).push .tlm
  · exact (PortsAdvance.refl s).push .url
  · exact (PortsAdvance.refl s).push .uid
  · exact PortsAdvance.refl s

theorem portsAdvance_after (i : Instr) (s : State) : PortsAdvance s (after i s) := by
  cases i with
  | encodeUid | encodeUrl => exact (PortsAdvance.refl s).encodeOp
  | encodeTlm => exact portsAdvance_encodeOp_tlm _ _ s
  | tickActive => exact portsAdvance_dispatch (countTick s)
  | nop | cmdReserved _ | wr _ _ | rd _ | tickInactive | reset => exact PortsAdvance.refl s

/-- Settles O10: no event writes the parameters or the event input, all output is appended, and only sampling takes from
the sensor ports. -/
theorem eventsOnlyExtendTheTrace : Obligations.EventsOnlyExtendTheTrace := by
  intro i s t h
  obtain ⟨j, hj, -⟩ := exec_performs i
  rw [hj s] at h
  cases h
  obtain ⟨new, htrace, -⟩ := after_sends j s
  exact ⟨params_after j s, inputs_after j s, ⟨new, htrace.symm⟩, portsAdvance_after j s⟩

/-! ## A step with nothing presented (log 2) -/

/-- Settles O7: an empty event input gives no event to perform. -/
theorem stepWithoutEventIsIdle : Obligations.StepWithoutEventIsIdle := by
  intro s h
  rw [step, takeEvent_nil s h]

end Sys2Proof.Proofs
